-- ==== Sys2Proof/Word.lean ====
section
/-! DEFINITION. The word types of the SFPU (`00_scope.md` R7): a lane of a register is 32 bits, a Dest
cell is 16 bits, operand fields are 4 bits; and the parameters that the spec fixes as numbers (R5). -/

namespace Sys2Proof

/-! ## The fixed parameters of R5. The types `Word`, `Half` and `LaneIx` below are those of `laneBits`, `dstCellBits`
and `nLanes`: `delta%` puts the value of the constant in its place, since Lean's arithmetic reads widths as numerals. -/

namespace Config

/-- `NLANES`. -/
abbrev nLanes : Nat := 32

/-- `LANE_BITS`. -/
abbrev laneBits : Nat := 32

/-- `NLREG`: indices 0 to 16. -/
abbrev nLreg : Nat := 17

/-- `NGPR`: the writable registers, indices 0 to 7. -/
abbrev nGpr : Nat := 8

/-- The programmable constants, indices 11 to 14 (`10_state.md` R13). -/
abbrev nPrg : Nat := 4

/-- The lane grid: rows. -/
abbrev gridRows : Nat := 4

/-- The lane grid: columns. -/
abbrev gridCols : Nat := 8

/-- `STACK_DEPTH` (R22). -/
def stackDepth : Nat := 8

/-- `DST_ROWS` of the 16-bit view (R40). -/
def dstRows : Nat := 1024

/-- Rows of the 32-bit view (R41). -/
def dst32Rows : Nat := 512

/-- `DST_COLS` (R40). -/
def dstCols : Nat := 16

/-- `DST_CELL_BITS`. -/
abbrev dstCellBits : Nat := 16

/-- `ADDR_BITS`: the width of an effective Dest address (`20_memory.md` R42). -/
def addrBits : Nat := 10

/-- `LANECONFIG_BITS` (`10_state.md` R25). -/
abbrev laneConfigBits : Nat := 18

/-- `LMC_MISC_BITS`: the width of `LoadMacroConfig.Misc` (R26). -/
abbrev lmcMiscBits : Nat := 12

/-- `PRNG_BITS` (R27). -/
abbrev prngBits : Nat := 32

/-- PRNG tap mask (R27). -/
def prngTaps : BitVec prngBits := 0x80200003#32

/-- The size of the reciprocal table, whose contents the spec does not give: `APPROX_RECIP` stands for it
(`44_compare_convert.md` R184). -/
def recipTableSize : Nat := 128

/-- The size of the exponential table, whose contents the spec does not give: `APPROX_EXP` stands for it (R184). -/
def expTableSize : Nat := 896

/-- The clock in MHz on Blackhole A0: "timing only; no rule depends on it" (log entry 39). -/
def clockMhz : Nat := 1350

end Config

/-- One lane of one `LReg`: `laneBits` bits (R5, R10). -/
abbrev Word := BitVec (delta% Config.laneBits)

/-- One cell of Dest, `dstCellBits` bits, or half of a lane (R5, R40). -/
abbrev Half := BitVec (delta% Config.dstCellBits)

/-- A register operand VA, VB, VC or VD (R71: `u4`). -/
abbrev Reg := BitVec 4

/-- A mode operand Mod0 or Mod1 (R71: `u4`; SFPSTOCHRND's Mod1 has three bits). -/
abbrev Mode := BitVec 4

/-- The index of a lane, below `nLanes` (R5, R17). -/
abbrev LaneIx := Fin (delta% Config.nLanes)

end Sys2Proof
end

