-- ==== Sys2Proof/Config.lean ====
section
/-! DEFINITION. The parameters the spec leaves open (`00_scope.md` R6) as constants WITHOUT a body, so that nothing
can be proved of the value they take. The parameters it fixes as numbers (R5) stand in `Word.lean`. Of the other
parameters of R6, `DST32_OVERLAY` and the Tensix inputs are launch parameters held in State, and `ENC` is an argument of
the step, which the host's interface asks for at the candidate that the spec names (`Config.enc`, log entry 1). The
laws the spec states for a parameter are enforced where it is used (`Machine/Fma.lean`, `Machine/Approx.lean`,
`Machine/Convert.lean`). -/

namespace Sys2Proof

/-- The read/write counters of one Tensix thread, `RWCs[Thread]` (`10_state.md` R28). The source gives
no width: natural numbers. -/
structure Rwc where
  /-- `RWCs[Thread].Dst` -/
  dst : Nat
  /-- `RWCs[Thread].Sp` -/
  sp : Nat
  deriving DecidableEq, Repr, Inhabited

namespace Config

/-- `FLAGS_UPDATE_WHEN_DISABLED` (R6, R24): false, as conflict C3 is resolved (D11). -/
def flagsUpdateWhenDisabled : Bool := false

/-! ## Free parameters (DESIGN CHOICE in form, unknown in value) -/

/-- `LANECONFIG_LAYOUT` (R25, D12a): the lowest bit of the field `ROW_MASK`, one bit for each row of the
grid. -/
opaque rowMaskLo : Fin (laneConfigBits - gridRows + 1)

/-- `LANECONFIG_LAYOUT`: `DISABLE_BACKDOOR_LOAD` is this one, counted from 0 upwards, of the
`laneConfigBits - gridRows` bits outside `ROW_MASK` (the type is written as a successor, so that it has a value). -/
opaque disableBackdoorRank : Fin (laneConfigBits - gridRows - 1 + 1)

/-- `LANECONFIG_LAYOUT`: `ENABLE_DEST_INDEX` is this one of the bits outside the other two fields. -/
opaque enableDestIndexRank : Fin (laneConfigBits - gridRows - 2 + 1)

/-- `ADDR_MOD_EFFECT` (R58, D13): what the entry `AddrMod` of the address modifier table does to
`RWCs[Thread]`. -/
opaque addrModEffect : BitVec 3 → Rwc → Rwc

/-- `FMA` on flushed finite operands whose product is no FP32 number (R110 law L6). -/
opaque fmaInexact : Word → Word → Word → Word

/-- `APPROX_RECIP` before its laws A1 and A2 (R184). -/
opaque approxRecip : Word → Word

/-- `APPROX_EXP` before its law A3 (R184). -/
opaque approxExp : Word → Word

/-- `STOCH_RND` (R178): whether stochastic rounding increases the magnitude, from `Mod1`, the source word, the
number of discarded bits and the PRNG state. -/
opaque stochRndUp : BitVec 3 → Word → Nat → Word → Bool

/-- `STOCH_RND`: the new PRNG state. -/
opaque stochRndPrng : BitVec 3 → Word → Nat → Word → Word

/-- `CAST_RNS` (R176): whether the magnitude is rounded up, from the source word and the PRNG state. -/
opaque castRnsUp : Word → Word → Bool

/-- `CAST_RNS`: the new PRNG state. -/
opaque castRnsPrng : Word → Word → Word

/-- `FP16_LOAD_EDGE` (R93 mode 1 at exponent fields 0 and 31). -/
opaque fp16LoadEdge : Half → Word

/-- `FP16_STORE` outside its law (R97 mode 1). -/
opaque fp16Store : Word → Half

/-- `INT8_LOAD` (R93 modes 5, 13): the sign and the magnitude, at most 255. -/
opaque int8Load : Half → Bool × BitVec 8

/-- `INT8_STORE` (R97 modes 5, 13). -/
opaque int8Store : Word → Half

/-- `FP16_IMM_EDGE` (R203 at exponent fields 0 and 31). -/
opaque fp16ImmEdge : Half → Word

/-- `LUT6_PACKING` (R118): whether, of the two pieces that share `LReg[i]`, the LOWER one has its slope in the
high half. -/
opaque lut6SlopeSwapped : Fin 3 → Bool

/-- `LUT6_PACKING`: the same of the intercepts in `LReg[4+i]`. -/
opaque lut6InterceptSwapped : Fin 3 → Bool

/-- `draw(16)` of SFPSTORE modes 7 and 8 (R97, U40, U41): by stream position and lane. -/
opaque drawHalf : Nat → Nat → Half

/-- `draw(1)` for the sign of a result whose sign the spec leaves open (R177, R180, R181, U42, U43): by stream
position and lane. -/
opaque drawSign : Nat → Nat → Bool

end Config

end Sys2Proof
end

