-- ==== Sys2Proof/Syntax.lean ====
section
/-! DEFINITION. The instructions: one constructor per row of `opcode_table.json`, its operands in the order
of the `TT_` form (`30_encoding.md` R70, R71). An operand position that the form fills with a literal 0 and
that no mode field is (`X = 0`, the VC position of SFPENCC, SFPPUSHC, SFPPOPC, SFPCOMPC) is no operand: the
decoder refuses any other value there (R75 b). -/

namespace Sys2Proof

/-- An SFPU instruction: a mnemonic with its operand tuple (R70). -/
inductive Instr where
  | sfpload (vd : Reg) (mod0 : Mode) (addrMod : BitVec 3) (imm10 : BitVec 10)
  | sfploadi (vd : Reg) (mod0 : Mode) (imm16 : BitVec 16)
  | sfpstore (vd : Reg) (mod0 : Mode) (addrMod : BitVec 3) (imm10 : BitVec 10)
  | sfpmuli (imm16 : BitVec 16) (vd : Reg) (mod1 : Mode)
  | sfpaddi (imm16 : BitVec 16) (vd : Reg) (mod1 : Mode)
  | sfpdivp2 (imm8 : BitVec 8) (vc vd : Reg) (mod1 : Mode)
  | sfpexexp (vc vd : Reg) (mod1 : Mode)
  | sfpexman (vc vd : Reg) (mod1 : Mode)
  | sfpiadd (imm12 : BitVec 12) (vc vd : Reg) (mod1 : Mode)
  | sfpshft (imm12 : BitVec 12) (vc vd : Reg) (mod1 : Mode)
  | sfpsetcc (imm1 : BitVec 1) (vc vd : Reg) (mod1 : Mode)
  | sfpmov (vc vd : Reg) (mod1 : Mode)
  | sfpabs (vc vd : Reg) (mod1 : Mode)
  | sfpand (vb vc vd : Reg) (mod1 : Mode)
  | sfpor (vb vc vd : Reg) (mod1 : Mode)
  | sfpnot (vc vd : Reg) (mod1 : Mode)
  | sfplz (vc vd : Reg) (mod1 : Mode)
  | sfpsetexp (imm8 : BitVec 8) (vc vd : Reg) (mod1 : Mode)
  | sfpsetman (imm12 : BitVec 12) (vc vd : Reg) (mod1 : Mode)
  | sfpmad (va vb vc vd : Reg) (mod1 : Mode)
  | sfpadd (va vb vc vd : Reg) (mod1 : Mode)
  | sfpmul (va vb vc vd : Reg) (mod1 : Mode)
  | sfppushc (vd : Reg) (mod1 : Mode)
  | sfppopc (vd : Reg) (mod1 : Mode)
  | sfpsetsgn (imm1 : BitVec 1) (vc vd : Reg) (mod1 : Mode)
  | sfpencc (imm2 : BitVec 2) (vd : Reg) (mod1 : Mode)
  | sfpcompc (vd : Reg) (mod1 : Mode)
  | sfptransp (vc vd : Reg) (mod1 : Mode)
  | sfpxor (vc vd : Reg) (mod1 : Mode)
  | sfpstochrnd (roundingMode : BitVec 2) (imm5 : BitVec 5) (vb vc vd : Reg) (mod1 : BitVec 3) (useImm5 : BitVec 1)
  | sfpnop
  | sfpcast (vc vd : Reg) (mod1 : Mode)
  | sfpconfig (imm16 : BitVec 16) (vd : Reg) (mod1 : Mode)
  | sfpswap (vc vd : Reg) (mod1 : Mode)
  | sfploadmacro (vd : Reg) (mod0 : Mode) (addrMod : BitVec 3) (imm10 : BitVec 10)
  | sfpshft2 (x : BitVec 12) (vc vd : Reg) (mod1 : Mode)
  | sfplutfp32 (vd : Reg) (mod1 : Mode)
  | sfple (vc vd : Reg) (mod1 : Mode)
  | sfpgt (vc vd : Reg) (mod1 : Mode)
  | sfpmul24 (va vb vc vd : Reg) (mod1 : Mode)
  | sfparecip (vb vc vd : Reg) (mod1 : Mode)
  deriving DecidableEq, Repr

end Sys2Proof
end

