-- ==== Sys2Proof/Decode.lean ====
section
/-! DEFINITION. The candidate binary encoding of `30_encoding.md` R74 (PRESUMED, log entry 1): one 32-bit word
per instruction, opcode in bits 31:24. `decode` is total: a word whose opcode byte is no SFPU instruction
(R75 e), or that has a non-zero bit where the format has a zero (R75 b), is rejected by name. Reserved mode
values decode, and are refused by the meaning (`Machine/Forms.lean`). -/

namespace Sys2Proof

/-- Why a word is no instruction. Both are SAFE: the spec gives such a word no behaviour (R75, U2). -/
inductive DecodeError where
  /-- the opcode byte is outside the list of R74: "not an SFPU instruction" (R75 e) -/
  | notSfpu (opcode : BitVec 8)
  /-- a position that the form fills with a literal 0 holds another value (R75 b) -/
  | nonzeroField (mnemonic : String)
  deriving DecidableEq, Repr

/-- `i` if the zero positions of its word are zero. -/
def zeros (mnemonic : String) (allZero : Bool) (i : Instr) : Except DecodeError Instr :=
  if allZero then .ok i else .error (.nonzeroField mnemonic)

/-- The instruction whose opcode byte is `op` and whose operands are the bits 23:0 of `w` (R74). -/
def decodeFields (op : Nat) (w : BitVec 32) : Except DecodeError Instr :=
  match op with
  | 0x70 => zeros "SFPLOAD" (w.extractLsb' 10 3 = 0)
      (.sfpload (w.extractLsb' 20 4) (w.extractLsb' 16 4) (w.extractLsb' 13 3) (w.extractLsb' 0 10))
  | 0x71 => .ok (.sfploadi (w.extractLsb' 20 4) (w.extractLsb' 16 4) (w.extractLsb' 0 16))
  | 0x72 => zeros "SFPSTORE" (w.extractLsb' 10 3 = 0)
      (.sfpstore (w.extractLsb' 20 4) (w.extractLsb' 16 4) (w.extractLsb' 13 3) (w.extractLsb' 0 10))
  | 0x74 => .ok (.sfpmuli (w.extractLsb' 8 16) (w.extractLsb' 4 4) (w.extractLsb' 0 4))
  | 0x75 => .ok (.sfpaddi (w.extractLsb' 8 16) (w.extractLsb' 4 4) (w.extractLsb' 0 4))
  | 0x76 => zeros "SFPDIVP2" (w.extractLsb' 20 4 = 0)
      (.sfpdivp2 (w.extractLsb' 12 8) (w.extractLsb' 8 4) (w.extractLsb' 4 4) (w.extractLsb' 0 4))
  | 0x77 => zeros "SFPEXEXP" (w.extractLsb' 12 12 = 0)
      (.sfpexexp (w.extractLsb' 8 4) (w.extractLsb' 4 4) (w.extractLsb' 0 4))
  | 0x78 => zeros "SFPEXMAN" (w.extractLsb' 12 12 = 0)
      (.sfpexman (w.extractLsb' 8 4) (w.extractLsb' 4 4) (w.extractLsb' 0 4))
  | 0x79 => .ok (.sfpiadd (w.extractLsb' 12 12) (w.extractLsb' 8 4) (w.extractLsb' 4 4) (w.extractLsb' 0 4))
  | 0x7A => .ok (.sfpshft (w.extractLsb' 12 12) (w.extractLsb' 8 4) (w.extractLsb' 4 4) (w.extractLsb' 0 4))
  | 0x7B => zeros "SFPSETCC" (w.extractLsb' 13 11 = 0)
      (.sfpsetcc (w.extractLsb' 12 1) (w.extractLsb' 8 4) (w.extractLsb' 4 4) (w.extractLsb' 0 4))
  | 0x7C => zeros "SFPMOV" (w.extractLsb' 12 12 = 0)
      (.sfpmov (w.extractLsb' 8 4) (w.extractLsb' 4 4) (w.extractLsb' 0 4))
  | 0x7D => zeros "SFPABS" (w.extractLsb' 12 12 = 0)
      (.sfpabs (w.extractLsb' 8 4) (w.extractLsb' 4 4) (w.extractLsb' 0 4))
  | 0x7E => zeros "SFPAND" (w.extractLsb' 16 8 = 0)
      (.sfpand (w.extractLsb' 12 4) (w.extractLsb' 8 4) (w.extractLsb' 4 4) (w.extractLsb' 0 4))
  | 0x7F => zeros "SFPOR" (w.extractLsb' 16 8 = 0)
      (.sfpor (w.extractLsb' 12 4) (w.extractLsb' 8 4) (w.extractLsb' 4 4) (w.extractLsb' 0 4))
  | 0x80 => zeros "SFPNOT" (w.extractLsb' 12 12 = 0)
      (.sfpnot (w.extractLsb' 8 4) (w.extractLsb' 4 4) (w.extractLsb' 0 4))
  | 0x81 => zeros "SFPLZ" (w.extractLsb' 12 12 = 0)
      (.sfplz (w.extractLsb' 8 4) (w.extractLsb' 4 4) (w.extractLsb' 0 4))
  | 0x82 => zeros "SFPSETEXP" (w.extractLsb' 20 4 = 0)
      (.sfpsetexp (w.extractLsb' 12 8) (w.extractLsb' 8 4) (w.extractLsb' 4 4) (w.extractLsb' 0 4))
  | 0x83 => .ok (.sfpsetman (w.extractLsb' 12 12) (w.extractLsb' 8 4) (w.extractLsb' 4 4) (w.extractLsb' 0 4))
  | 0x84 => zeros "SFPMAD" (w.extractLsb' 20 4 = 0)
      (.sfpmad (w.extractLsb' 16 4) (w.extractLsb' 12 4) (w.extractLsb' 8 4) (w.extractLsb' 4 4) (w.extractLsb' 0 4))
  | 0x85 => zeros "SFPADD" (w.extractLsb' 20 4 = 0)
      (.sfpadd (w.extractLsb' 16 4) (w.extractLsb' 12 4) (w.extractLsb' 8 4) (w.extractLsb' 4 4) (w.extractLsb' 0 4))
  | 0x86 => zeros "SFPMUL" (w.extractLsb' 20 4 = 0)
      (.sfpmul (w.extractLsb' 16 4) (w.extractLsb' 12 4) (w.extractLsb' 8 4) (w.extractLsb' 4 4) (w.extractLsb' 0 4))
  | 0x87 => zeros "SFPPUSHC" (w.extractLsb' 12 12 = 0 ∧ w.extractLsb' 8 4 = 0)
      (.sfppushc (w.extractLsb' 4 4) (w.extractLsb' 0 4))
  | 0x88 => zeros "SFPPOPC" (w.extractLsb' 12 12 = 0 ∧ w.extractLsb' 8 4 = 0)
      (.sfppopc (w.extractLsb' 4 4) (w.extractLsb' 0 4))
  | 0x89 => zeros "SFPSETSGN" (w.extractLsb' 13 11 = 0)
      (.sfpsetsgn (w.extractLsb' 12 1) (w.extractLsb' 8 4) (w.extractLsb' 4 4) (w.extractLsb' 0 4))
  | 0x8A => zeros "SFPENCC" (w.extractLsb' 14 10 = 0 ∧ w.extractLsb' 8 4 = 0)
      (.sfpencc (w.extractLsb' 12 2) (w.extractLsb' 4 4) (w.extractLsb' 0 4))
  | 0x8B => zeros "SFPCOMPC" (w.extractLsb' 12 12 = 0 ∧ w.extractLsb' 8 4 = 0)
      (.sfpcompc (w.extractLsb' 4 4) (w.extractLsb' 0 4))
  | 0x8C => zeros "SFPTRANSP" (w.extractLsb' 12 12 = 0)
      (.sfptransp (w.extractLsb' 8 4) (w.extractLsb' 4 4) (w.extractLsb' 0 4))
  | 0x8D => zeros "SFPXOR" (w.extractLsb' 12 12 = 0)
      (.sfpxor (w.extractLsb' 8 4) (w.extractLsb' 4 4) (w.extractLsb' 0 4))
  | 0x8E => zeros "SFPSTOCHRND" (w.extractLsb' 23 1 = 0)
      (.sfpstochrnd (w.extractLsb' 21 2) (w.extractLsb' 16 5) (w.extractLsb' 12 4) (w.extractLsb' 8 4) (w.extractLsb' 4 4) (w.extractLsb' 0 3) (w.extractLsb' 3 1))
  | 0x8F => zeros "SFPNOP" (w.extractLsb' 0 24 = 0)
      (.sfpnop)
  | 0x90 => zeros "SFPCAST" (w.extractLsb' 12 12 = 0)
      (.sfpcast (w.extractLsb' 8 4) (w.extractLsb' 4 4) (w.extractLsb' 0 4))
  | 0x91 => .ok (.sfpconfig (w.extractLsb' 8 16) (w.extractLsb' 4 4) (w.extractLsb' 0 4))
  | 0x92 => zeros "SFPSWAP" (w.extractLsb' 12 12 = 0)
      (.sfpswap (w.extractLsb' 8 4) (w.extractLsb' 4 4) (w.extractLsb' 0 4))
  | 0x93 => zeros "SFPLOADMACRO" (w.extractLsb' 10 3 = 0)
      (.sfploadmacro (w.extractLsb' 20 4) (w.extractLsb' 16 4) (w.extractLsb' 13 3) (w.extractLsb' 0 10))
  | 0x94 => .ok (.sfpshft2 (w.extractLsb' 12 12) (w.extractLsb' 8 4) (w.extractLsb' 4 4) (w.extractLsb' 0 4))
  | 0x95 => zeros "SFPLUTFP32" (w.extractLsb' 8 16 = 0)
      (.sfplutfp32 (w.extractLsb' 4 4) (w.extractLsb' 0 4))
  | 0x96 => zeros "SFPLE" (w.extractLsb' 12 12 = 0)
      (.sfple (w.extractLsb' 8 4) (w.extractLsb' 4 4) (w.extractLsb' 0 4))
  | 0x97 => zeros "SFPGT" (w.extractLsb' 12 12 = 0)
      (.sfpgt (w.extractLsb' 8 4) (w.extractLsb' 4 4) (w.extractLsb' 0 4))
  | 0x98 => zeros "SFPMUL24" (w.extractLsb' 20 4 = 0)
      (.sfpmul24 (w.extractLsb' 16 4) (w.extractLsb' 12 4) (w.extractLsb' 8 4) (w.extractLsb' 4 4) (w.extractLsb' 0 4))
  | 0x99 => zeros "SFPARECIP" (w.extractLsb' 16 8 = 0)
      (.sfparecip (w.extractLsb' 12 4) (w.extractLsb' 8 4) (w.extractLsb' 4 4) (w.extractLsb' 0 4))
  | _ => .error (.notSfpu (BitVec.ofNat 8 op))

/-- The instruction a word stands for (R74): its opcode byte is bits 31:24. -/
def decode (w : BitVec 32) : Except DecodeError Instr := decodeFields (w.extractLsb' 24 8).toNat w

/-- The word of an instruction: the opcode byte, then the fields of its format from bit 23 down (R74). -/
def encode : Instr → BitVec 32
  | .sfpload vd mod0 addrMod imm10 => 0x70#8 ++ vd ++ mod0 ++ addrMod ++ 0#3 ++ imm10
  | .sfploadi vd mod0 imm16 => 0x71#8 ++ vd ++ mod0 ++ imm16
  | .sfpstore vd mod0 addrMod imm10 => 0x72#8 ++ vd ++ mod0 ++ addrMod ++ 0#3 ++ imm10
  | .sfpmuli imm16 vd mod1 => 0x74#8 ++ imm16 ++ vd ++ mod1
  | .sfpaddi imm16 vd mod1 => 0x75#8 ++ imm16 ++ vd ++ mod1
  | .sfpdivp2 imm8 vc vd mod1 => 0x76#8 ++ 0#4 ++ imm8 ++ vc ++ vd ++ mod1
  | .sfpexexp vc vd mod1 => 0x77#8 ++ 0#12 ++ vc ++ vd ++ mod1
  | .sfpexman vc vd mod1 => 0x78#8 ++ 0#12 ++ vc ++ vd ++ mod1
  | .sfpiadd imm12 vc vd mod1 => 0x79#8 ++ imm12 ++ vc ++ vd ++ mod1
  | .sfpshft imm12 vc vd mod1 => 0x7A#8 ++ imm12 ++ vc ++ vd ++ mod1
  | .sfpsetcc imm1 vc vd mod1 => 0x7B#8 ++ 0#11 ++ imm1 ++ vc ++ vd ++ mod1
  | .sfpmov vc vd mod1 => 0x7C#8 ++ 0#12 ++ vc ++ vd ++ mod1
  | .sfpabs vc vd mod1 => 0x7D#8 ++ 0#12 ++ vc ++ vd ++ mod1
  | .sfpand vb vc vd mod1 => 0x7E#8 ++ 0#8 ++ vb ++ vc ++ vd ++ mod1
  | .sfpor vb vc vd mod1 => 0x7F#8 ++ 0#8 ++ vb ++ vc ++ vd ++ mod1
  | .sfpnot vc vd mod1 => 0x80#8 ++ 0#12 ++ vc ++ vd ++ mod1
  | .sfplz vc vd mod1 => 0x81#8 ++ 0#12 ++ vc ++ vd ++ mod1
  | .sfpsetexp imm8 vc vd mod1 => 0x82#8 ++ 0#4 ++ imm8 ++ vc ++ vd ++ mod1
  | .sfpsetman imm12 vc vd mod1 => 0x83#8 ++ imm12 ++ vc ++ vd ++ mod1
  | .sfpmad va vb vc vd mod1 => 0x84#8 ++ 0#4 ++ va ++ vb ++ vc ++ vd ++ mod1
  | .sfpadd va vb vc vd mod1 => 0x85#8 ++ 0#4 ++ va ++ vb ++ vc ++ vd ++ mod1
  | .sfpmul va vb vc vd mod1 => 0x86#8 ++ 0#4 ++ va ++ vb ++ vc ++ vd ++ mod1
  | .sfppushc vd mod1 => 0x87#8 ++ 0#12 ++ 0#4 ++ vd ++ mod1
  | .sfppopc vd mod1 => 0x88#8 ++ 0#12 ++ 0#4 ++ vd ++ mod1
  | .sfpsetsgn imm1 vc vd mod1 => 0x89#8 ++ 0#11 ++ imm1 ++ vc ++ vd ++ mod1
  | .sfpencc imm2 vd mod1 => 0x8A#8 ++ 0#10 ++ imm2 ++ 0#4 ++ vd ++ mod1
  | .sfpcompc vd mod1 => 0x8B#8 ++ 0#12 ++ 0#4 ++ vd ++ mod1
  | .sfptransp vc vd mod1 => 0x8C#8 ++ 0#12 ++ vc ++ vd ++ mod1
  | .sfpxor vc vd mod1 => 0x8D#8 ++ 0#12 ++ vc ++ vd ++ mod1
  | .sfpstochrnd roundingMode imm5 vb vc vd mod1 useImm5 => 0x8E#8 ++ 0#1 ++ roundingMode ++ imm5 ++ vb ++ vc ++ vd ++ useImm5 ++ mod1
  | .sfpnop => 0x8F#8 ++ 0#24
  | .sfpcast vc vd mod1 => 0x90#8 ++ 0#12 ++ vc ++ vd ++ mod1
  | .sfpconfig imm16 vd mod1 => 0x91#8 ++ imm16 ++ vd ++ mod1
  | .sfpswap vc vd mod1 => 0x92#8 ++ 0#12 ++ vc ++ vd ++ mod1
  | .sfploadmacro vd mod0 addrMod imm10 => 0x93#8 ++ vd ++ mod0 ++ addrMod ++ 0#3 ++ imm10
  | .sfpshft2 x vc vd mod1 => 0x94#8 ++ x ++ vc ++ vd ++ mod1
  | .sfplutfp32 vd mod1 => 0x95#8 ++ 0#16 ++ vd ++ mod1
  | .sfple vc vd mod1 => 0x96#8 ++ 0#12 ++ vc ++ vd ++ mod1
  | .sfpgt vc vd mod1 => 0x97#8 ++ 0#12 ++ vc ++ vd ++ mod1
  | .sfpmul24 va vb vc vd mod1 => 0x98#8 ++ 0#4 ++ va ++ vb ++ vc ++ vd ++ mod1
  | .sfparecip vb vc vd mod1 => 0x99#8 ++ 0#8 ++ vb ++ vc ++ vd ++ mod1

/-- The opcode byte of an instruction (R74). -/
def opcode : Instr → BitVec 8
  | .sfpload .. => 0x70#8
  | .sfploadi .. => 0x71#8
  | .sfpstore .. => 0x72#8
  | .sfpmuli .. => 0x74#8
  | .sfpaddi .. => 0x75#8
  | .sfpdivp2 .. => 0x76#8
  | .sfpexexp .. => 0x77#8
  | .sfpexman .. => 0x78#8
  | .sfpiadd .. => 0x79#8
  | .sfpshft .. => 0x7A#8
  | .sfpsetcc .. => 0x7B#8
  | .sfpmov .. => 0x7C#8
  | .sfpabs .. => 0x7D#8
  | .sfpand .. => 0x7E#8
  | .sfpor .. => 0x7F#8
  | .sfpnot .. => 0x80#8
  | .sfplz .. => 0x81#8
  | .sfpsetexp .. => 0x82#8
  | .sfpsetman .. => 0x83#8
  | .sfpmad .. => 0x84#8
  | .sfpadd .. => 0x85#8
  | .sfpmul .. => 0x86#8
  | .sfppushc .. => 0x87#8
  | .sfppopc .. => 0x88#8
  | .sfpsetsgn .. => 0x89#8
  | .sfpencc .. => 0x8A#8
  | .sfpcompc .. => 0x8B#8
  | .sfptransp .. => 0x8C#8
  | .sfpxor .. => 0x8D#8
  | .sfpstochrnd .. => 0x8E#8
  | .sfpnop .. => 0x8F#8
  | .sfpcast .. => 0x90#8
  | .sfpconfig .. => 0x91#8
  | .sfpswap .. => 0x92#8
  | .sfploadmacro .. => 0x93#8
  | .sfpshft2 .. => 0x94#8
  | .sfplutfp32 .. => 0x95#8
  | .sfple .. => 0x96#8
  | .sfpgt .. => 0x97#8
  | .sfpmul24 .. => 0x98#8
  | .sfparecip .. => 0x99#8

/-- A binary encoding: the parameter `ENC` (`00_scope.md` R6, D2), which a machine takes as an argument
(`Machine/Step.lean`). -/
structure Encoding where
  encode : Instr → BitVec 32
  decode : BitVec 32 → Except DecodeError Instr

/-- The value of `ENC` in this machine: the candidate of R74 (PRESUMED, log entry 1). -/
def Config.enc : Encoding where
  encode := encode
  decode := decode

/-- The instruction that the decoder reads from the bits `w` of the opcode table: an instruction is one word,
so the bits above `nbits` are 0 and there is no order of words. -/
def decodeTableWord (nbits w : Nat) : Option Instr :=
  (decode (BitVec.ofNat 32 (w % 2 ^ nbits))).toOption

end Sys2Proof
end

