-- ==== Sys2Proof/Machine/Forms.lean ====
section
/-! DEFINITION. Which operand forms of an instruction the spec gives a meaning (`60_exceptions.md` R243,
`30_encoding.md` R75): the part of admission that depends on the instruction alone. The parts that depend
on the state stand in the meanings. -/

namespace Sys2Proof.Machine

/-- A register operand that names a general register, one of the `nGpr` writable ones (`10_state.md` R11, R16). -/
def isGpr (r : Reg) : Bool := r.toNat < Config.nGpr

/-- Why an operand form has no meaning. Each is SAFE: the spec gives the form no behaviour, not even "no
effect" (R243). -/
inductive FormError where
  /-- a Mod0 or Mod1 value that the instruction's table does not list (R75 a, U1) -/
  | reservedMode (mnemonic : String)
  /-- SFPLOAD or SFPSTORE with `MOD0_FMT_INT32_ALL`: "a different formula", not given (R99) -/
  | int32AllAddressing
  /-- SFPSTORE with `MOD0_FMT_ZERO`: the width of the cell written is not given (R97 g) -/
  | storeZeroWidth
  /-- SFPSTORE with VD 12 to 15: no meaning for a store (R96) -/
  | storeSource
  /-- SFPLOADI with VD 8 to 15: "must be 0–7" (R202) -/
  | loadiDestination
  /-- SFPMULI with Mod1 bit 1: what it negates is contradictory (R115) -/
  | muliNegate
  /-- SFPMUL24 with VC other than 9: "a non-contractual shift/add adjustment" (R119) -/
  | mul24Addend
  /-- SFPSHFT2 modes 0 to 5 with a non-zero `X[11:4]` (R157) -/
  | shft2Operand
  /-- the VD operand 8 to 15 of SFPSETCC, SFPENCC, SFPPUSHC, SFPPOPC, SFPCOMPC (R170, R228) -/
  | unusedDestination
  /-- SFPSTOCHRND with `RoundingMode = 3` (R178) -/
  | roundingMode
  /-- SFPSTOCHRND flavors A and B with a non-zero `Imm5` or `UseImm5` (R178) -/
  | roundOperands
  /-- SFPCONFIG with VD 9 or 10 (R205) -/
  | configDestination
  /-- SFPCONFIG with Mod1 bit 3, the lane mask (R207) -/
  | configLaneMask
  /-- SFPCONFIG with `Mod1 & 6 = 6` (R207) -/
  | configXor
  /-- SFPPUSHC with Mod1 = 15: the order of the pair is not confirmed (R222 c) -/
  | pushPairOrder
  /-- SFPTRANSP: named, never described (R210) -/
  | transpNotDescribed
  /-- SFPLOADMACRO: named, never described (R211) -/
  | loadMacroNotDescribed
  deriving DecidableEq, Repr

/-- `require b e`: nothing is wrong if `b`, else `e`. -/
def require (b : Bool) (e : FormError) : Option FormError := if b then none else some e

/-- What is wrong with the operand form of an instruction, if anything (R243). -/
def formError : Instr → Option FormError
  | .sfpload _ mod0 _ _ => require (mod0 ≠ 10) .int32AllAddressing
  | .sfploadi vd mod0 _ =>
    require (mod0 = 0 ∨ mod0 = 1 ∨ mod0 = 2 ∨ mod0 = 4 ∨ mod0 = 8 ∨ mod0 = 10) (.reservedMode "SFPLOADI")
      <|> require (isGpr vd) .loadiDestination
  | .sfpstore vd mod0 _ _ =>
    require (mod0 ≠ 10) .int32AllAddressing <|> require (mod0 ≠ 11) .storeZeroWidth
      <|> require (vd < 12) .storeSource
  | .sfpmuli _ _ mod1 =>
    require (mod1 &&& 5 = 0) (.reservedMode "SFPMULI") <|> require (mod1 &&& 2 = 0) .muliNegate
  | .sfpaddi _ _ mod1 => require (mod1 &&& 5 = 0) (.reservedMode "SFPADDI")
  | .sfpdivp2 _ _ _ mod1 => require (mod1 < 2) (.reservedMode "SFPDIVP2")
  | .sfpexexp _ _ mod1 => require (mod1 &&& 4 = 0) (.reservedMode "SFPEXEXP")
  | .sfpexman _ _ mod1 => require (mod1 < 2) (.reservedMode "SFPEXMAN")
  | .sfpiadd _ _ _ _ => none
  | .sfpshft _ _ _ mod1 => require (mod1 &&& 8 = 0) (.reservedMode "SFPSHFT")
  | .sfpsetcc _ _ vd _ => require (isGpr vd) .unusedDestination
  | .sfpmov _ _ mod1 =>
    require (mod1 = 0 ∨ mod1 = 1 ∨ mod1 = 2 ∨ mod1 = 8 ∨ mod1 = 9) (.reservedMode "SFPMOV")
  | .sfpabs _ _ mod1 => require (mod1 < 2) (.reservedMode "SFPABS")
  | .sfpand _ _ _ mod1 => require (mod1 < 2) (.reservedMode "SFPAND")
  | .sfpor _ _ _ mod1 => require (mod1 < 2) (.reservedMode "SFPOR")
  | .sfpnot _ _ mod1 => require (mod1 = 0) (.reservedMode "SFPNOT")
  | .sfplz _ _ mod1 => require (mod1 &&& 1 = 0) (.reservedMode "SFPLZ")
  | .sfpsetexp _ _ _ mod1 => require (mod1 < 3) (.reservedMode "SFPSETEXP")
  | .sfpsetman _ _ _ mod1 => require (mod1 < 2) (.reservedMode "SFPSETMAN")
  | .sfpmad _ _ _ _ _ => none
  | .sfpadd _ _ _ _ _ => none
  | .sfpmul _ _ _ _ _ => none
  | .sfppushc vd mod1 => require (mod1 ≠ 15) .pushPairOrder <|> require (isGpr vd) .unusedDestination
  | .sfppopc vd _ => require (isGpr vd) .unusedDestination
  | .sfpsetsgn _ _ _ mod1 => require (mod1 < 2) (.reservedMode "SFPSETSGN")
  | .sfpencc _ vd mod1 =>
    require (mod1 &&& 4 = 0) (.reservedMode "SFPENCC") <|> require (isGpr vd) .unusedDestination
  | .sfpcompc vd mod1 => require (mod1 = 0) (.reservedMode "SFPCOMPC") <|> require (isGpr vd) .unusedDestination
  | .sfptransp _ _ _ => some .transpNotDescribed
  | .sfpxor _ _ mod1 => require (mod1 = 0) (.reservedMode "SFPXOR")
  | .sfpstochrnd roundingMode imm5 _ _ _ mod1 useImm5 =>
    require (roundingMode ≠ 3) .roundingMode
      <|> require (mod1 = 4 ∨ mod1 = 5 ∨ imm5 = 0 ∧ useImm5 = 0) .roundOperands
  | .sfpnop => none
  | .sfpcast _ _ mod1 => require (mod1 < 4) (.reservedMode "SFPCAST")
  | .sfpconfig _ vd mod1 =>
    require (vd ≠ 9 ∧ vd ≠ 10) .configDestination <|> require (mod1 &&& 8 = 0) .configLaneMask
      <|> require (mod1 &&& 6 ≠ 6) .configXor
  | .sfpswap _ _ mod1 => require (mod1 < 10) (.reservedMode "SFPSWAP")
  | .sfploadmacro _ _ _ _ => some .loadMacroNotDescribed
  | .sfpshft2 x _ _ mod1 =>
    require (mod1 < 7) (.reservedMode "SFPSHFT2")
      <|> require (mod1 = 6 ∨ x.extractLsb' 4 8 = 0) .shft2Operand
  | .sfplutfp32 _ mod1 => require (mod1 &&& 11 ≠ 1 ∧ mod1 &&& 11 ≠ 9) (.reservedMode "SFPLUTFP32")
  | .sfple _ _ _ => none
  | .sfpgt _ _ _ => none
  | .sfpmul24 _ _ vc _ mod1 =>
    require (mod1 &&& 2 = 0) (.reservedMode "SFPMUL24") <|> require (vc = 9) .mul24Addend
  | .sfparecip _ _ _ mod1 => require (mod1 < 3) (.reservedMode "SFPARECIP")

end Sys2Proof.Machine
end

