-- ==== Sys2Proof/Machine/State.lean ====
section
/-! DEFINITION. The state of the SFPU (`10_state.md`), its value after reset (R32), and the reasons a step can
stop: faults (`60_exceptions.md` R241) and refusals (R243). -/

namespace Sys2Proof.Machine

/-- One entry of a flag stack (R22). -/
structure FlagEntry where
  laneFlags : Bool
  useLaneFlags : Bool
  deriving DecidableEq, Repr

/-- `LoadMacroConfig` of one lane (R26): pure storage for the instructions in scope. `InstructionTemplate` and
`Sequence` are 32 bits each by decision D12b (log entry 29). -/
structure LoadMacroConfig where
  template : Vector Word 4
  sequence : Vector Word 4
  misc : BitVec Config.lmcMiscBits
  deriving DecidableEq, Repr

/-- Everything the spec gives one lane. The constants `LReg[8, 9, 10, 15]` are hard-wired (R12): the accessor
`State.lreg` gives them. -/
structure Lane where
  /-- `LReg[0..7]`, the general registers (R11) -/
  gpr : Vector Word Config.nGpr
  /-- `LReg[11..14]`, the programmable constants (R13) -/
  prg : Vector Word Config.nPrg
  /-- `LReg[16]`, which no instruction in scope reaches (R14) -/
  r16 : Word
  /-- `LaneFlags` (R20) -/
  laneFlag : Bool
  /-- `UseLaneFlagsForLaneEnable` (R21) -/
  useLaneFlags : Bool
  /-- `FlagStack`, the top first (R22) -/
  flagStack : List FlagEntry
  /-- `LaneConfig` (R25) -/
  laneConfig : BitVec Config.laneConfigBits
  /-- `LoadMacroConfig` (R26) -/
  lmc : LoadMacroConfig
  /-- `PRNG_State` (R27) -/
  prng : BitVec Config.prngBits
  deriving DecidableEq, Repr

/-- What `ALU_FORMAT_SPEC_REG` resolves `MOD0_FMT_SRCB` to (R28, `40_load_store.md` R90). -/
inductive AluFormatSpec where
  | fp16
  | bf16
  | fp32
  deriving DecidableEq, Repr

/-- The Tensix state outside the SFPU that SFPU instructions read (R28): inputs of the step, apart from
`Thread`. The source gives no widths; they enter a 10-bit sum (`20_memory.md` R42). -/
structure Tensix where
  /-- `RWCs`, by thread; a thread that is not listed has the counters 0, 0 (log entry 12) -/
  rwcs : List Rwc
  /-- `DEST_TARGET_REG_CFG_MATH_Offset` -/
  mathOffset : Nat
  /-- `Config.DEST_REGW_BASE_Base` -/
  destRegwBase : Nat
  /-- `Config.DEST_SP_BASE_Base` -/
  destSpBase : Nat
  /-- `DEST_RD_COL_EXCHANGE` (`20_memory.md` R44) -/
  destRdColExchange : Bool
  /-- `ALU_FORMAT_SPEC_REG` -/
  aluFormatSpec : AluFormatSpec
  deriving DecidableEq, Repr

/-- One instruction as the Tensix coprocessor delivers it (R29): its word, and the Tensix inputs where the
environment supplies them afresh with it (R28). -/
structure Delivery where
  word : BitVec 32
  inputs : Option Tensix
  deriving DecidableEq, Repr

/-- Dest as a list of (key, 16-bit cell), `key = row * 16 + col` (R40), keys rising; a cell not listed holds no
value (log entry 10). -/
abbrev Memory := List (Nat × Half)

/-- The two cells of the 16-bit view, as (row, column), that hold bits 31:16 and bits 15:0 of a 32-bit cell
(`20_memory.md` R41). -/
structure CellPair where
  hi : Nat × Nat
  lo : Nat × Nat
  deriving DecidableEq, Repr

/-- `DST32_OVERLAY` (`00_scope.md` R6, `20_memory.md` R41) as data: the pair of each listed 32-bit cell (row, column). A
cell that is not listed has the pair that R41 names (`Overlay.pair`), so every function of the row and column is some
list. -/
abbrev Overlay := List ((Nat × Nat) × CellPair)

/-- The state of the machine (`10_state.md`). -/
structure State where
  /-- the 32 lanes (R17) -/
  lanes : Vector Lane Config.nLanes
  /-- Dest (R30, R40) -/
  dest : Memory
  /-- the Tensix inputs (R28) -/
  tensix : Tensix
  /-- `Thread`, the thread that issues the stream: a constant of the run (`60_exceptions.md` R251, D24) -/
  thread : Nat
  /-- `DST32_OVERLAY` (`20_memory.md` R41, `92_eei_decisions.md` D4): a parameter of the launch, a constant of the run -/
  overlay : Overlay
  /-- the instruction stream that `pos` indexes (R29; log entry 2) -/
  program : List Delivery
  /-- the stream position (R29) -/
  pos : Nat
  /-- `pending`: the registers 0 to 7 that the preceding instruction wrote, if it is a 2-cycle producer (R31,
  `70_reset_and_hazards.md` R263), rising -/
  pending : List Reg
  /-- the MODEL's own: the next instruction must be SFPNOP (`70_reset_and_hazards.md` R268, R269) -/
  nopRequired : Bool
  deriving DecidableEq, Repr

/-- The fault record (R241, R245): the fault, `pos`, and the lane where a lane is concerned. The state at a
fault is the state before the instruction. Each is SAFE: it "marks the edge of what the source defines". Code 4,
`DestOrdering`, needs the Matrix Unit (log entry 38). -/
inductive Fault where
  /-- code 1: SFPLOAD reads, in this enabled lane, a Dest cell that nothing has defined (`40_load_store.md` R94).
  Registers always hold a value in this model (log entry 9). -/
  | unwrittenRead (pos lane : Nat)
  /-- code 2: an undetected read of a pending register, or a missing SFPNOP (`70_reset_and_hazards.md` R266, R268,
  R269); raised by `issue` -/
  | hazardViolation (pos : Nat)
  /-- code 3: SFPLOAD or SFPSTORE in the 32-bit view at row 512 or above (R91) -/
  | destRange (pos lane : Nat)
  /-- code 5: SFPPUSHC with Mod1 = 0 on a stack of depth 8 (`46_predication.md` R222) -/
  | flagStackOverflow (pos lane : Nat)
  /-- code 6: SFPPOPC, SFPPUSHC Mod1 1 to 14, SFPGT or SFPLE with `MUTATE_STACK`, on an empty stack (R222, R223) -/
  | flagStackUnderflow (pos lane : Nat)
  deriving DecidableEq, Repr

/-- The numeric code of a fault (R241). -/
def Fault.code : Fault → Nat
  | .unwrittenRead .. => 1
  | .hazardViolation .. => 2
  | .destRange .. => 3
  | .flagStackOverflow .. => 5
  | .flagStackUnderflow .. => 6

/-- Why an instruction has no meaning. Each is SAFE: the spec gives the instruction, or the form, no behaviour
(R243). -/
inductive Refusal where
  /-- the dispatch table has no meaning for the instruction -/
  | notModelled (mnemonic : String)
  /-- the operand form is outside the admitted subset, by the instruction alone (R243); raised by `step` before a stream that holds
  such an instruction starts, and by `admitted` -/
  | inadmissible (e : FormError)
  /-- the word delivered is no instruction of the SFPU (R75 b, e); raised by `step`, before a stream that holds such a word
  starts -/
  | undecodable (e : DecodeError)
  /-- SFPSTORE of VD 8 to 11 while `DISABLE_BACKDOOR_LOAD` is false in some lane: the backdoor write is not
  described (`40_load_store.md` R96) -/
  | backdoorStore
  /-- SFPSWAP while `ENABLE_DEST_INDEX` is true in some lane: argmin and argmax are not described
  (`44_compare_convert.md` R174) -/
  | destIndexSwap
  /-- SFPCONFIG while some lane is disabled (`45_move_config.md` R206) -/
  | configUnderPredication
  /-- SFPPOPC with Mod1 1 to 12 where the top entry's enable switch differs from the current one in some lane
  (`46_predication.md` R223) -/
  | popSwitchMismatch
  deriving DecidableEq, Repr

/-- The outcome of a step. -/
abbrev Result := Host.Outcome State Fault Refusal

/-- A lane after reset (R32). The flags are false, the stack empty and `LaneConfig` 0 as the spec says; the zeros
of the registers, `LoadMacroConfig` and `PRNG_State` are DESIGN CHOICE (log entries 4 to 8, UNSAFE). -/
def Lane.reset : Lane where
  gpr := Vector.replicate Config.nGpr 0#Config.laneBits
  prg := Vector.replicate Config.nPrg 0#Config.laneBits
  r16 := 0#Config.laneBits
  laneFlag := false
  useLaneFlags := false
  flagStack := []
  laneConfig := 0#Config.laneConfigBits
  lmc := { template := Vector.replicate 4 0#32, sequence := Vector.replicate 4 0#32, misc := 0#Config.lmcMiscBits }
  prng := 0#Config.prngBits

/-- The Tensix inputs before the environment has supplied any: DESIGN CHOICE (log entries 12, 14, 15). -/
def Tensix.reset : Tensix where
  rwcs := [⟨0, 0⟩]
  mathOffset := 0
  destRegwBase := 0
  destSpBase := 0
  destRdColExchange := false
  aluFormatSpec := .fp32

/-- The machine right after reset (R32, `70_reset_and_hazards.md` R260): no cell of Dest holds a value, the
stream is empty, `pos = 0`, `pending` is empty. `DST32_OVERLAY` is the candidate of R41 (PRESUMED, log entry 11). -/
def State.reset : State where
  lanes := Vector.replicate Config.nLanes Lane.reset
  dest := []
  tensix := Tensix.reset
  thread := 0
  overlay := []
  program := []
  pos := 0
  pending := []
  nopRequired := false

end Sys2Proof.Machine
end

