-- ==== Sys2Proof/Machine/Ops.lean ====
section
/-! DEFINITION. The named operations over the state: reading and writing registers (`10_state.md` R10 to R16),
lane enable (R23, R24), the fields of `LaneConfig` (R25), the PRNG (R27), Dest as plain cells (`20_memory.md`
R40), the way an instruction is admitted, issued and retired (`60_exceptions.md` R241 to R244,
`70_reset_and_hazards.md` R263 to R269), and the delivery of an instruction (`10_state.md` R28, R29).

The SFPU takes no exception (R240, R245, R247): there is no entry and no return to model. -/

namespace Sys2Proof.Machine

/-! ## The fields of LaneConfig (R25; positions are the free parameter LANECONFIG_LAYOUT, log entry 16) -/

/-- Bit `p` of a `LaneConfig` word. The first test changes nothing: it makes the reset value 0 readable
without the layout ("all zero by default"). -/
def cfgBit (cfg : BitVec Config.laneConfigBits) (p : Nat) : Bool := cfg != 0#Config.laneConfigBits && cfg.getLsbD p

/-- The bit number of the position with rank `r` outside `ROW_MASK`. -/
def outsideRowMask (r : Nat) : Nat := if r < Config.rowMaskLo.val then r else r + Config.gridRows

/-- `LaneConfig.ROW_MASK[r]` (R23, R25). -/
def rowMask (cfg : BitVec Config.laneConfigBits) (r : Nat) : Bool := cfgBit cfg (Config.rowMaskLo.val + r)

/-- `LaneConfig.DISABLE_BACKDOOR_LOAD` (R25). -/
def disableBackdoorLoad (cfg : BitVec Config.laneConfigBits) : Bool :=
  cfgBit cfg (outsideRowMask Config.disableBackdoorRank.val)

/-- `LaneConfig.ENABLE_DEST_INDEX` (R25): its rank counts the positions outside the other two fields. -/
def enableDestIndex (cfg : BitVec Config.laneConfigBits) : Bool :=
  cfgBit cfg (outsideRowMask
    (if Config.enableDestIndexRank.val < Config.disableBackdoorRank.val then Config.enableDestIndexRank.val
     else Config.enableDestIndexRank.val + 1))

/-! ## Lanes and registers -/

/-- Column of a lane in the 4 by 8 grid (R17), as a lane of row 0. -/
def columnLane (l : LaneIx) : LaneIx := ⟨l.val % Config.gridCols, by simp only [Config.gridCols]; omega⟩

/-- Row of a lane in the grid (R17). -/
def laneRow (l : LaneIx) : Nat := l.val / Config.gridCols

/-- Lane `l`. -/
def State.lane (s : State) (l : LaneIx) : Lane := s.lanes[l]

/-- `LaneEnabled(l)` (R23). -/
def laneEnabled (s : State) (l : LaneIx) : Bool :=
  if rowMask (s.lane (columnLane l)).laneConfig (laneRow l) then false
  else if (s.lane l).useLaneFlags then (s.lane l).laneFlag
  else true

/-- `LReg[i]` of a lane: R10 to R13, R15. Indices 8, 9, 10 and 15 are hard-wired. -/
def Lane.lreg (lane : Lane) (l : LaneIx) (i : Reg) : Word :=
  if h : i.toNat < Config.nGpr then lane.gpr[i.toNat]
  else if i = 8 then 0x3F566189#32
  else if i = 9 then 0#32
  else if i = 10 then 0x3F800000#32
  else if h : i.toNat - 11 < Config.nPrg then lane.prg[i.toNat - 11]
  else BitVec.ofNat 32 (2 * l.val)

/-- `LReg[i][l]` (R15). -/
def State.lreg (s : State) (i : Reg) (l : LaneIx) : Word := (s.lane l).lreg l i

/-- `WriteLReg(i, l, v)`: the write guard of R16. A write to index 8 to 15 changes nothing and is no fault. -/
def Lane.write (lane : Lane) (i : Reg) (v : Word) : Lane :=
  if h : i.toNat < Config.nGpr then { lane with gpr := lane.gpr.set i.toNat v } else lane

/-- The state with every lane replaced. -/
def State.mapLanes (s : State) (f : LaneIx → Lane → Lane) : State :=
  { s with lanes := Vector.ofFn fun l => f l (s.lane l) }

/-- `WriteLReg` in every lane that `en` picks, index and value per lane (R16). -/
def State.writeLanesIf (s : State) (en : LaneIx → Bool) (dst : LaneIx → Reg) (val : LaneIx → Word) : State :=
  s.mapLanes fun l lane => if en l then lane.write (dst l) (val l) else lane

/-- `WriteLReg` in every enabled lane (R16, R24). -/
def State.writeLanes (s : State) (dst : LaneIx → Reg) (val : LaneIx → Word) : State :=
  s.writeLanesIf (laneEnabled s) dst val

/-- The new `LaneFlags` in every enabled lane; in the others too under `FLAGS_UPDATE_WHEN_DISABLED` (R24, log
entry 32). -/
def State.setFlags (s : State) (flag : LaneIx → Bool) : State :=
  s.mapLanes fun l lane =>
    if laneEnabled s l || Config.flagsUpdateWhenDisabled then { lane with laneFlag := flag l } else lane

/-- The new `PRNG_State` in every enabled lane (R24: "a disabled lane also … does not advance its PRNG"). -/
def State.setPrng (s : State) (prng : LaneIx → Word) : State :=
  s.mapLanes fun l lane => if laneEnabled s l then { lane with prng := prng l } else lane

/-- The per-lane index of the indirect modes, `LReg[7][l] & 15` (R11, `30_encoding.md` R73). -/
def State.indirect (s : State) (l : LaneIx) : Reg := (s.lreg 7 l).extractLsb' 0 4

/-- The state after `AdvancePRNG` (R27): bit 31 is set when the number of set tap bits is even. -/
def advancePrng (w : Word) : Word :=
  (if (List.range Config.prngBits).countP (fun i => (w &&& Config.prngTaps).getLsbD i) % 2 = 0 then 0x80000000#32 else 0#32)
    ||| (w >>> 1)

/-! ## Dest as cells (`20_memory.md` R40) -/

/-- The cell with a key: none if nothing has defined it. -/
def Memory.read : Memory → Nat → Option Half
  | [], _ => none
  | (k, v) :: m, key => if k = key then some v else Memory.read m key

/-- The memory after a write of one cell; keys stay rising. -/
def Memory.write : Memory → Nat → Half → Memory
  | [], key, v => [(key, v)]
  | (k, w) :: m, key, v =>
    if key < k then (key, v) :: (k, w) :: m
    else if key = k then (key, v) :: m
    else (k, w) :: Memory.write m key v

/-- The canonical form: keys strictly rising and inside the array of `DST_ROWS` by `DST_COLS` cells (R40). -/
abbrev Memory.wf (m : Memory) : Prop :=
  m.Pairwise (fun a b => a.1 < b.1) ∧ ∀ c ∈ m, c.1 < Config.dstRows * Config.dstCols

/-! ## How an instruction stops or completes -/

/-- A refusal of R243 that depends on the instruction alone, else `k`. -/
def admitted (i : Instr) (k : Result) : Result :=
  match formError i with
  | some e => .refused (.inadmissible e)
  | none => k

/-- A refusal of R243 that depends on the state, else `k`. -/
def refuseIf (b : Bool) (r : Refusal) (k : Result) : Result := if b then .refused r else k

/-- `Fault(HazardViolation)` where an SFPNOP is mandatory (R268, R269) or where the instruction makes one of the
undetected reads `reads` of a pending register (R266), else `k`. -/
def issue (s : State) (reads : List Reg) (k : Result) : Result :=
  if s.nopRequired || reads.any (fun r => s.pending.contains r) then .fault (.hazardViolation s.pos) else k

/-- The lowest lane with a property (R244). -/
def firstLane (p : LaneIx → Bool) : Option LaneIx := (List.finRange Config.nLanes).find? p

/-- A fault of the lowest lane in which `bad` holds (R244), else `k`. -/
def faultIf (bad : LaneIx → Bool) (f : Nat → Fault) (k : Result) : Result :=
  match firstLane bad with
  | some l => .fault (f l.val)
  | none => k

/-- A set of registers 0 to 7, rising (R263). -/
def regSet (p : Reg → Bool) : List Reg := ((List.range Config.nGpr).map (BitVec.ofNat 4)).filter p

/-- `pending` after a 2-cycle producer with a direct or an indirect destination (R263). -/
def pendingDst (indirect : Bool) (vd : Reg) : List Reg := regSet fun r => indirect || r == vd

/-- The end of every instruction: `pos <- pos + 1` (R29), the new `pending` (R263). -/
def State.retire (s : State) (pending : List Reg) : State :=
  { s with pos := s.pos + 1, pending := pending, nopRequired := false }

/-- `nopRequired` where an instruction makes an SFPNOP mandatory after it (R268, R269). -/
def State.requireNop (s : State) (b : Bool) : State := { s with nopRequired := b }

/-! ## Delivery (R28, R29) -/

/-- The instruction at the stream position, if the stream has one. -/
def fetch (s : State) : Option Delivery := s.program[s.pos]?

/-- The Tensix inputs that arrive with an instruction replace those held (R28); `Thread` stays (R251). -/
def State.deliver (s : State) (d : Delivery) : State :=
  match d.inputs with
  | some t => { s with tensix := t }
  | none => s

/-- What is wrong with a word, if it is no instruction or its operand form has no meaning (R243, R75). -/
def wordRefusal (enc : Encoding) (w : BitVec 32) : Option Refusal :=
  match enc.decode w with
  | .error e => some (.undecodable e)
  | .ok i => (formError i).map .inadmissible

/-- Why a stream may not start: what is wrong with its first word outside the admitted subset (R243). -/
def streamRefusal (enc : Encoding) (program : List Delivery) : Option Refusal :=
  program.findSome? fun d => wordRefusal enc d.word

/-- A stream loaded so that the word `w` stands at position `p`, after SFPNOPs that are never run (log entry 2). -/
def placeAt (p : Nat) (w : BitVec 32) : List Delivery :=
  List.replicate p ⟨Config.enc.encode .sfpnop, none⟩ ++ [⟨w, none⟩]

/-! ## The counters RWCs (R28) -/

/-- `RWCs[Thread]`; a thread that the inputs do not list has the counters 0, 0 (DESIGN CHOICE, log entry 12: the
number of threads is open, `60_exceptions.md` R251). -/
def State.rwc (s : State) : Rwc := s.tensix.rwcs.getD s.thread ⟨0, 0⟩

/-- `RWCs` with the counters of one thread replaced. A thread that is not listed becomes listed, with those before it
at 0, 0, as they read (DESIGN CHOICE, log entry 12); no write is lost. -/
def setRwc : Nat → List Rwc → Rwc → List Rwc
  | 0, rwcs, r => r :: rwcs.tail
  | n + 1, rwcs, r => rwcs.headD ⟨0, 0⟩ :: setRwc n rwcs.tail r

/-- `RWCs[Thread] <- ADDR_MOD_EFFECT(AddrMod, RWCs[Thread])` after an access (`20_memory.md` R58; log entries 12 and
13, DESIGN CHOICE). -/
def State.applyAddrMod (s : State) (addrMod : BitVec 3) : State :=
  { s with tensix := { s.tensix with rwcs := setRwc s.thread s.tensix.rwcs (Config.addrModEffect addrMod s.rwc) } }

end Sys2Proof.Machine
end

