-- ==== Sys2Proof/Machine/Operands.lean ====
section
/-! DEFINITION. The operand forms: the bit fields of a word (`00_scope.md` R7, `10_state.md` R18), the values of
the immediates (`30_encoding.md` R72), the 16-bit floating formats (`41_mad.md` R117, `45_move_config.md` R203), the
order of sign-magnitude words (`44_compare_convert.md` R171), and the shapes of a lanewise instruction. -/

namespace Sys2Proof.Machine

/-! ## Fields of a word -/

/-- Bit `i` of a mode operand. -/
def bit (m : Mode) (i : Nat) : Bool := m.getLsbD i

/-- `w.Sign`. -/
def signOf (w : Word) : Bool := w.getLsbD 31

/-- `w.Exp`, bits 30:23. -/
def expOf (w : Word) : BitVec 8 := w.extractLsb' 23 8

/-- `w.Man`, bits 22:0. -/
def manOf (w : Word) : BitVec 23 := w.extractLsb' 0 23

/-- `w.Mag`, bits 30:0. -/
def magOf (w : Word) : BitVec 31 := w.extractLsb' 0 31

/-- `w[31:16]`. -/
def hi16 (w : Word) : Half := w.extractLsb' 16 16

/-- `w[15:0]`. -/
def lo16 (w : Word) : Half := w.extractLsb' 0 16

/-- `{s, e, m}` as an FP32 word. -/
def mkFp (s : Bool) (e : BitVec 8) (m : BitVec 23) : Word := BitVec.ofBool s ++ e ++ m

/-- `{s, mag}` as a sign-magnitude word. -/
def mkSm (s : Bool) (mag : BitVec 31) : Word := BitVec.ofBool s ++ mag

/-- `s32(w) < 0`. -/
def isNeg (w : Word) : Bool := w.getLsbD 31

/-- The absolute value of a two's complement word modulo 2^32; `0x80000000` stays (R136 mode 0, R176 mode 2). -/
def intAbs (w : Word) : Word := if isNeg w then 0#32 - w else w

/-- `clz32`: 32 for 0 (`43_integer_logic.md` R155). -/
def clz32 (w : Word) : Word := if w = 0#32 then 32#32 else BitVec.ofNat 32 (31 - w.toNat.log2)

/-- The key `K(w)` of the sign-magnitude order: -NaN < -Inf < … < -0 < +0 < … < +NaN (R171). -/
def smKey (w : Word) : Int := if signOf w then -((magOf w).toNat : Int) - 1 else (magOf w).toNat

/-- `x` is greater than `y` in the sign-magnitude order (R171). -/
def smGt (x y : Word) : Bool := smKey x > smKey y

/-! ## Immediates (`30_encoding.md` R72) -/

/-- `BF16ToFP32(Imm16)`: "a pure bit-position shift". -/
def bf16ToFp32 (imm : BitVec 16) : Word := imm ++ 0#16

/-- `sext_12(Imm12)`. -/
def sext12 (imm : BitVec 12) : Word := imm.signExtend 32

/-- `{S, (Exp + 112), Man, 0(13)}`: a half-precision number re-biased (R93 mode 1, R117, R203). -/
def rebias (s : Bool) (e : BitVec 5) (m : BitVec 10) : Word := mkFp s (e.zeroExtend 8 + 112#8) (m ++ 0#13)

/-- `Lut16ToFp32(h)`, fields in the half-precision order (R117; field order PRESUMED, log entry 26). Exponent 0 is
a normalised number, exponent 31 is a zero. -/
def lut16ToFp32 (h : Half) : Word :=
  let s := h.getLsbD 15
  let e := h.extractLsb' 10 5
  if e = 31#5 then mkFp s 0 0 else rebias s e (h.extractLsb' 0 10)

/-- `FP16ToFP32(Imm16)` (R203; field order PRESUMED, edges free, log entry 25). -/
def fp16ImmToFp32 (imm : BitVec 16) : Word :=
  let e := imm.extractLsb' 10 5
  if e = 0#5 ∨ e = 31#5 then Config.fp16ImmEdge imm else rebias (imm.getLsbD 15) e (imm.extractLsb' 0 10)

/-! ## The shapes of an instruction -/

/-- An admitted instruction with the undetected reads `reads` that writes `val l` to `LReg[dst l][l]` in every
enabled lane and leaves `pending` behind. -/
def lanewiseTo (i : Instr) (reads : List Reg) (s : State) (dst : LaneIx → Reg) (val : LaneIx → Word)
    (pending : List Reg) : Result :=
  admitted i (issue s reads (.next ((s.writeLanes dst val).retire pending)))

/-- The same with a direct destination and no `pending`: the 1-cycle instructions without flags. -/
def lanewise (i : Instr) (reads : List Reg) (s : State) (vd : Reg) (val : LaneIx → Word) : Result :=
  lanewiseTo i reads s (fun _ => vd) val []

/-- A 1-cycle instruction that also sets `LaneFlags` to `flag l` where `setsFlag` holds (the callers include
their own test `VD < 8`, R16). -/
def lanewiseFlag (i : Instr) (reads : List Reg) (s : State) (vd : Reg) (val : LaneIx → Word) (setsFlag : Bool)
    (flag : LaneIx → Bool) : Result :=
  let t := s.writeLanes (fun _ => vd) val
  admitted i (issue s reads (.next ((if setsFlag then t.setFlags flag else t).retire [])))

/-- The destination of the MAD instructions: `VD`, or `LReg[7][l] & 15` with the indirect bit (R111). -/
def madDst (s : State) (indirect : Bool) (vd : Reg) (l : LaneIx) : Reg := if indirect then s.indirect l else vd

end Sys2Proof.Machine
end

