-- ==== Sys2Proof/Machine/Fma.lean ====
section
/-! DEFINITION. `FMA(a, b, c)` of `41_mad.md` R110, laws L1 to L6. Exact values are natural numbers of units of
2^-149; where the product is no FP32 number (L6) the result is free, but never a denormal and never a NaN other
than `0x7FC00000` (log entry 17). -/

namespace Sys2Proof.Machine

/-- The canonical NaN (R110). -/
def canonicalNan : Word := 0x7FC00000#32

/-- `Exp = 255, Man != 0`. -/
def isNan (w : Word) : Bool := expOf w = 255#8 && manOf w ≠ 0#23

/-- `Exp = 255, Man = 0`. -/
def isInf (w : Word) : Bool := expOf w = 255#8 && manOf w = 0#23

/-- `Z(x)`, and `FlushD(w)` of `40_load_store.md` R97: a word with exponent 0 becomes a zero of its sign. -/
def flush (w : Word) : Word := if expOf w = 0#8 then mkFp (signOf w) 0 0 else w

/-- The infinity of a sign. -/
def inf (s : Bool) : Word := mkFp s 255#8 0

/-- The significand of a normal number, `2^23 + Man`. -/
def sig (w : Word) : Nat := 2 ^ 23 + (manOf w).toNat

/-- The magnitude of a flushed finite word in units of 2^-149. -/
def units (w : Word) : Nat := if expOf w = 0#8 then 0 else sig w <<< ((expOf w).toNat - 1)

/-- The magnitude of the product of two flushed finite words in units of 2^-149, if the product is an FP32 normal
number or zero (L5). -/
def exactProduct (a b : Word) : Option Nat :=
  if expOf a = 0#8 ∨ expOf b = 0#8 then some 0
  else
    let n := sig a * sig b
    let k := n.log2
    let e := k + (expOf a).toNat + (expOf b).toNat
    if n % 2 ^ (k - 23) = 0 ∧ 174 ≤ e ∧ e ≤ 427 then some ((n >>> (k - 23)) <<< (e - 174)) else none

/-- `RNE` of `u` units of 2^-149 with overflow to infinity and the flush below 2^-126 (L5). -/
def roundUnits (s : Bool) (u : Nat) : Word :=
  if u < 2 ^ 23 then mkFp s 0 0
  else
    let sh := u.log2 - 23
    let q := u >>> sh
    let rem := u % 2 ^ sh
    let up := if 2 * rem > 2 ^ sh ∨ 2 * rem = 2 ^ sh ∧ q % 2 = 1 then 1 else 0
    let m := sh * 2 ^ 23 + q + up
    mkSm s (if m ≥ 0x7F800000 then 0x7F800000#31 else BitVec.ofNat 31 m)

/-- The rounded sum of two signed magnitudes; an exact zero is +0 unless both are negative (L5). -/
def addUnits (sp : Bool) (p : Nat) (sc : Bool) (c : Nat) : Word :=
  if sp = sc then roundUnits sp (p + c)
  else if p = c then mkFp false 0 0
  else if c < p then roundUnits sp (p - c)
  else roundUnits sc (c - p)

/-- What is known of a result under L6: no denormal; a NaN is canonical. -/
def tidy (w : Word) : Word := if isNan w then canonicalNan else flush w

/-- `FMA` on flushed operands (L2 to L6). -/
def fmaFlushed (a b c : Word) : Word :=
  let sp := signOf a ^^ signOf b
  if isNan a || isNan b || isNan c then canonicalNan
  else if isInf a || isInf b then
    if expOf a = 0#8 ∨ expOf b = 0#8 ∨ isInf c ∧ signOf c ≠ sp then canonicalNan else inf sp
  else if isInf c then c
  else
    match exactProduct a b with
    | some p => addUnits sp p (signOf c) (units c)
    | none => tidy (Config.fmaInexact a b c)

/-- `FMA(a, b, c)` (R110); the inputs are flushed first (L1). -/
def fma (a b c : Word) : Word := fmaFlushed (flush a) (flush b) (flush c)

end Sys2Proof.Machine
end

