-- ==== Sys2Proof/Machine/Approx.lean ====
section
/-! DEFINITION. `APPROX_RECIP` and `APPROX_EXP` of `44_compare_convert.md` R184: free functions held to the laws A1
to A3. A value of the free function that breaks its law is replaced by a value that keeps it (log entry 18). -/

namespace Sys2Proof.Machine

/-- A positive finite word as `f * 2^(e - 150)`: the pair `(f, e)`; `none` for any other word. -/
def posValue (w : Word) : Option (Nat × Nat) :=
  if signOf w || expOf w = 255#8 || magOf w = 0#31 then none
  else if expOf w = 0#8 then some ((manOf w).toNat, 1)
  else some (sig w, (expOf w).toNat)

/-- A1: `0.9944 < r * x < 1.0054` and `r` positive, for a normal `x`. -/
def recipLaw (x r : Word) : Bool :=
  match posValue r with
  | none => false
  | some (f, e) =>
    let p := f * sig x * 2 ^ (e + (expOf x).toNat)
    9944 * 2 ^ 300 < 10000 * p && 10000 * p < 10054 * 2 ^ 300

/-- The reciprocal of a normal positive `x` below 2^126, truncated to 24 bits. -/
def recipWitness (x : Word) : Word :=
  if manOf x = 0#23 then mkFp false (254#8 - expOf x) 0
  else mkFp false (253#8 - expOf x) (BitVec.ofNat 23 (2 ^ 47 / sig x))

/-- `APPROX_RECIP` (A1, A2, A4). -/
def approxRecip (x : Word) : Word :=
  let r := Config.approxRecip x
  if x = 0x3F800000#32 then 0x3F7F0000#32
  else if signOf x || expOf x = 0#8 || expOf x ≥ 253#8 then r
  else if recipLaw x r then r else recipWitness x

/-- The terms of `e^t` for `t` in units of 2^-64: `n` more terms after `term`, which is number `i`. -/
def expSeries (t : Nat) : Nat → Nat → Nat → Nat
  | 0, _, term => term
  | n + 1, i, term => term + expSeries t n (i + 1) (term * t / (2 ^ 64 * (i + 1)))

/-- A word below 2 in units of 2^-64, rounded down. -/
def fixed64 (w : Word) : Nat :=
  if expOf w = 0#8 then 0 else (sig w <<< (expOf w).toNat) >>> 86

/-- A lower bound of `e^x` in units of 2^-64, for `0 <= x < 2`; `e^x` is less than 2^10 units above it. -/
def expLow (x : Word) : Nat := expSeries (fixed64 x) 40 0 (2 ^ 64)

/-- A3: `0.9922 e^x < r < 1.016 e^x` and `r` positive, where `u` units of 2^-64 are a lower bound of `e^x` that is
short by less than 2^10 units; the test errs towards the law. -/
def expLaw (u : Nat) (r : Word) : Bool :=
  match posValue r with
  | none => false
  | some (f, e) =>
    let p := f * 2 ^ e
    9922 * (u + 2 ^ 10) * 2 ^ 86 < 10000 * p && 1000 * p < 1016 * u * 2 ^ 86

/-- `u` units of 2^-64, at least 2^64 of them, truncated to 24 bits. -/
def expWitness (u : Nat) : Word := mkSm false (BitVec.ofNat 31 ((u.log2 + 62) * 2 ^ 23 + u >>> (u.log2 - 23)))

/-- `APPROX_EXP` (A3, A4), on a word without sign. -/
def approxExp (x : Word) : Word :=
  let r := Config.approxExp x
  if x.toNat < 0x40000000 then (if expLaw (expLow x) r then r else expWitness (expLow x)) else r

end Sys2Proof.Machine
end

