-- ==== Sys2Proof/Machine/Convert.lean ====
section
/-! DEFINITION. The conversions of SFPCAST (`44_compare_convert.md` R176, R177) and of SFPSTOCHRND (R178 to R181). -/

namespace Sys2Proof.Machine

/-! ## SFPCAST -/

/-- The FP32 word `{s, 127 + e, q[22:0]}` for a significand `q` at most 2^24 that stands for `q * 2^(e - 23)`; a
`q` of 2^24 carries into the exponent (R177). -/
def castPack (s : Bool) (e q : Nat) : Word := mkSm s (BitVec.ofNat 31 ((126 + e) * 2 ^ 23 + q))

/-- A magnitude as FP32 (R177): `up odd rem half` says whether a magnitude that has discarded bits `rem` is
rounded up. -/
def castMag (s : Bool) (m : Nat) (up : Bool → Nat → Nat → Bool) : Word :=
  let e := m.log2
  if e ≤ 23 then castPack s e (m <<< (23 - e))
  else
    let sh := e - 23
    let q := m >>> sh
    castPack s e (if up (q % 2 = 1) (m % 2 ^ sh) (2 ^ (sh - 1)) then q + 1 else q)

/-- `CastRNE(c)`; `sign` is the `draw(1)` for the input -0 (R177, log entry 21). -/
def castRne (c : Word) (sign : Bool) : Word :=
  if magOf c = 0#31 then mkSm (signOf c && sign) 0#31
  else castMag (signOf c) (magOf c).toNat fun odd rem half => rem > half || (rem = half && odd)

/-- `CAST_RNS` (R176): exact up to 2^24, else one of the two neighbours (log entry 20). -/
def castRns (c : Word) (prng : Word) (sign : Bool) : Word :=
  if (magOf c).toNat ≤ 2 ^ 24 then castRne c sign
  else castMag (signOf c) (magOf c).toNat fun _ rem _ => rem ≠ 0 && Config.castRnsUp c prng

/-- Mode 3 of SFPCAST: `Sign | (Sign ? -c : c)` (R176). -/
def castSm (c : Word) : Word := (c &&& 0x80000000#32) ||| (if signOf c then 0#32 - c else c)

/-- SFPCAST on one lane (R176). -/
def castLane (mod1 : Mode) (c prng : Word) (sign : Bool) : Word :=
  if mod1 = 0#4 then castRne c sign
  else if mod1 = 1#4 then castRns c prng sign
  else if mod1 = 2#4 then intAbs c
  else castSm c

/-! ## SFPSTOCHRND -/

/-- Whether rounding increases the magnitude (R178): `disc` are the `n` discarded bits; nearest has ties away from
zero, and with no discarded bit there is nothing to round to nearest (R181). The stochastic choice `stoch` is free
(log entry 19). -/
def roundsUp (mode : BitVec 2) (n disc : Nat) (stoch : Bool) : Bool :=
  if mode = 0#2 then 0 < n ∧ 2 ^ (n - 1) ≤ disc
  else if mode = 1#2 then stoch
  else false

/-- Flavor A (R179): FP32 to FP32 with 10 or 7 mantissa bits. -/
def rndFloat (mod1 : BitVec 3) (mode : BitVec 2) (c prng : Word) : Word :=
  let n := if mod1 = 0#3 then 13 else 16
  if expOf c = 0#8 then 0#32
  else if expOf c = 255#8 then inf (signOf c)
  else
    let t := c >>> n <<< n
    if roundsUp mode n (c.toNat % 2 ^ n) (Config.stochRndUp mod1 c n prng) then t + BitVec.ofNat 32 (2 ^ n) else t

/-- `MaxMagnitude` (R180, R181). -/
def maxMagnitude (mod1 : BitVec 3) : Nat :=
  if mod1 = 2#3 ∨ mod1 = 4#3 then 255 else if mod1 = 6#3 then 65535 else if mod1 = 7#3 then 32767 else 127

/-- A bounded sign-magnitude result; `sign` is the `draw(1)` for the sign of a zero (R180, R181, log entry 22). -/
def rndResult (s : Bool) (mag : Nat) (sign : Bool) : Word :=
  mkSm (if mag = 0 then s && sign else s) (BitVec.ofNat 31 mag)

/-- Flavor B (R180): FP32 to a bounded sign-magnitude integer. -/
def rndFloatToInt (mod1 : BitVec 3) (mode : BitVec 2) (c prng : Word) (sign : Bool) : Word :=
  let bound := maxMagnitude mod1
  let s := (mod1 = 3#3 ∨ mod1 = 7#3) && signOf c
  if expOf c ≥ 143#8 then rndResult s bound sign
  else if expOf c < 126#8 then rndResult s 0 sign
  else
    let sh := 150 - (expOf c).toNat
    let up := roundsUp mode sh (sig c % 2 ^ sh) (Config.stochRndUp mod1 c sh prng)
    rndResult s (min (sig c >>> sh + (if up then 1 else 0)) bound) sign

/-- Flavor C (R181): a sign-magnitude integer shifted right by `sh` and bounded. -/
def rndInt (mod1 : BitVec 3) (mode : BitVec 2) (c : Word) (sh : Nat) (prng : Word) (sign : Bool) : Word :=
  let m := (magOf c).toNat
  let up := roundsUp mode sh (m % 2 ^ sh) (Config.stochRndUp mod1 c sh prng)
  rndResult (mod1 = 5#3 && signOf c) (min (m >>> sh + (if up then 1 else 0)) (maxMagnitude mod1)) sign

/-- The number of bits SFPSTOCHRND discards from `c`, as its configuration function is told. -/
def discardedBits (mod1 : BitVec 3) (c : Word) (sh : Nat) : Nat :=
  if mod1 = 0#3 then 13 else if mod1 = 1#3 then 16 else if mod1 = 4#3 ∨ mod1 = 5#3 then sh
  else 150 - (expOf c).toNat

/-- SFPSTOCHRND on one lane (R178); `sh` is the shift amount of flavor C. -/
def stochRndLane (mod1 : BitVec 3) (mode : BitVec 2) (c : Word) (sh : Nat) (prng : Word) (sign : Bool) : Word :=
  if mod1 = 0#3 ∨ mod1 = 1#3 then rndFloat mod1 mode c prng
  else if mod1 = 4#3 ∨ mod1 = 5#3 then rndInt mod1 mode c sh prng sign
  else rndFloatToInt mod1 mode c prng sign

end Sys2Proof.Machine
end

