-- ==== Sys2Proof/Machine/Flags.lean ====
section
/-! DEFINITION. Every flag computation: the flag of the arithmetic instructions with its complement option
(`42_fp_fields.md` R131, `43_integer_logic.md` R150, R155), SFPSETCC (`44_compare_convert.md` R170), the boolean
operations on the flag stack (`46_predication.md` R225) and the other updates of predication state. -/

namespace Sys2Proof.Machine

/-- The flag after a result: `test` if `set`, else the old flag; inverted if `comp` (R131, R150, R155). -/
def ccFlag (set comp old test : Bool) : Bool := (if set then test else old) ^^ comp

/-- The flag SFPSETCC writes (R170), from `UseLaneFlagsForLaneEnable`, the mode, `Imm1` and the word of VC. -/
def setccFlag (useFlags : Bool) (mod1 : Mode) (imm1 : BitVec 1) (c : Word) : Bool :=
  if !useFlags then false
  else if bit mod1 3 then false
  else if bit mod1 0 then imm1 = 1#1
  else if bit mod1 2 then
    if bit mod1 1 then c = 0#32 else !isNeg c
  else
    if bit mod1 1 then c ≠ 0#32 else isNeg c

/-- `BooleanOp(Mod1, A, B)` (R225): A is the flag at the top of the stack, B the current flag. The table is for
Mod1 1 to 12. -/
def booleanOp (mod1 : Mode) (a b : Bool) : Bool :=
  match mod1.toNat with
  | 1 => b
  | 2 => !b
  | 3 => a && b
  | 4 => a || b
  | 5 => a && !b
  | 6 => a || !b
  | 7 => !a && b
  | 8 => !a || b
  | 9 => !a && !b
  | 10 => !a || !b
  | 11 => a ^^ b
  | 12 => !(a ^^ b)
  | _ => b

/-- The top entry with its `LaneFlags` ANDed or ORed with a comparison result (R172 `MUTATE_STACK`); an empty
stack stays (the instruction faults first). -/
def mutateTop (useOr r : Bool) : List FlagEntry → List FlagEntry
  | [] => []
  | top :: rest => { top with laneFlags := if useOr then top.laneFlags || r else top.laneFlags && r } :: rest

/-- The current state of predication of a lane, as a stack entry. -/
def Lane.current (lane : Lane) : FlagEntry := ⟨lane.laneFlag, lane.useLaneFlags⟩

/-- What SFPPUSHC does to a lane (R222). Mod1 1 to 14 on an empty stack fault first, Mod1 15 is refused. -/
def pushLane (mod1 : Mode) (lane : Lane) : Lane :=
  if mod1 = 0#4 then { lane with flagStack := lane.current :: lane.flagStack }
  else
    match lane.flagStack with
    | [] => lane
    | top :: rest =>
      if mod1 = 13#4 then
        { lane with laneFlag := !lane.laneFlag, flagStack := ⟨!lane.laneFlag, lane.useLaneFlags⟩ :: rest }
      else if mod1 = 14#4 then { lane with flagStack := ⟨true, true⟩ :: rest }
      else { lane with flagStack := ⟨booleanOp mod1 top.laneFlags lane.laneFlag, lane.useLaneFlags⟩ :: rest }

/-- What SFPPOPC does to a lane (R223). Mod1 0 to 12 on an empty stack fault first. -/
def popLane (mod1 : Mode) (lane : Lane) : Lane :=
  if mod1 = 13#4 then { lane with laneFlag := !lane.laneFlag }
  else if mod1 = 14#4 then { lane with laneFlag := true, useLaneFlags := true }
  else if mod1 = 15#4 then { lane with laneFlag := false, useLaneFlags := true }
  else
    match lane.flagStack with
    | [] => lane
    | top :: rest =>
      if mod1 = 0#4 then
        { lane with laneFlag := top.laneFlags, useLaneFlags := top.useLaneFlags, flagStack := rest }
      else { lane with laneFlag := booleanOp mod1 top.laneFlags lane.laneFlag }

/-- What SFPCOMPC does to a lane (R224): an empty stack counts as `{true, true}`. -/
def compLane (lane : Lane) : Lane :=
  let top := lane.flagStack.headD ⟨true, true⟩
  { lane with laneFlag := top.useLaneFlags && lane.useLaneFlags && (top.laneFlags && !lane.laneFlag) }

/-- What SFPENCC does to an enabled lane (R221). -/
def enccLane (imm2 : BitVec 2) (mod1 : Mode) (lane : Lane) : Lane :=
  { lane with
    useLaneFlags :=
      if bit mod1 1 then imm2.getLsbD 0 else if bit mod1 0 then !lane.useLaneFlags else lane.useLaneFlags
    laneFlag := if bit mod1 3 then imm2.getLsbD 1 else true }

end Sys2Proof.Machine
end

