-- ==== Sys2Proof/Machine/CompareConvert.lean ====
section
/-! DEFINITION. Compare, swap, convert, round, reciprocal (`44_compare_convert.md` R170 to R184). -/

namespace Sys2Proof.Machine

/-- SFPSETCC (R170): `LaneFlags` in enabled lanes; no register is written, VD has no effect. -/
def execSfpsetcc (imm1 : BitVec 1) (vc vd : Reg) (mod1 : Mode) (s : State) : Result :=
  admitted (.sfpsetcc imm1 vc vd mod1) <| issue s [] <|
    .next ((s.setFlags fun l => setccFlag (s.lane l).useLaneFlags mod1 imm1 (s.lreg vc l)).retire [])

/-- The state change SFPGT and SFPLE share (R172, R173), from the result `r` of the comparison: `MUTATE_STACK` in
every lane, `SET_VD` and `SET_CC` in enabled lanes. -/
def compareState (vd : Reg) (mod1 : Mode) (r : LaneIx → Bool) (s : State) : State :=
  let t1 := if bit mod1 1 then
      s.mapLanes fun l lane => { lane with flagStack := mutateTop (bit mod1 2) (r l) lane.flagStack }
    else s
  let t2 := if bit mod1 3 then t1.writeLanes (fun _ => vd) fun l => if r l then 0xFFFFFFFF#32 else 0#32 else t1
  if bit mod1 0 then t2.setFlags r else t2

/-- SFPGT and SFPLE: `MUTATE_STACK` on an empty stack faults, in any lane (R172 c). -/
def compareExec (i : Instr) (vd : Reg) (mod1 : Mode) (r : LaneIx → Bool) (s : State) : Result :=
  admitted i <| issue s [] <|
    faultIf (fun l => bit mod1 1 && (s.lane l).flagStack.isEmpty) (.flagStackUnderflow s.pos) <|
    .next ((compareState vd mod1 r s).retire [])

/-- SFPGT (R172): VD > VC in the sign-magnitude order. -/
def execSfpgt (vc vd : Reg) (mod1 : Mode) (s : State) : Result :=
  compareExec (.sfpgt vc vd mod1) vd mod1 (fun l => smGt (s.lreg vd l) (s.lreg vc l)) s

/-- SFPLE (R173): "the exact inverse: tests VD <= VC". -/
def execSfple (vc vd : Reg) (mod1 : Mode) (s : State) : Result :=
  compareExec (.sfple vc vd mod1) vd mod1 (fun l => !smGt (s.lreg vd l) (s.lreg vc l)) s

/-! ## SFPSWAP -/

/-- Whether VD gets the minimum in row `k` (R174 `MinSet`; modes 3 and 4 read off their names, log entry 40). -/
def swapMin (mod1 : Mode) (k : Nat) : Bool :=
  match mod1.toNat with
  | 1 => true
  | 2 => k = 0 ∨ k = 1
  | 3 => k = 0 ∨ k = 2
  | 4 => k = 0 ∨ k = 3
  | 5 => k = 0
  | 6 => k = 1
  | 7 => k = 2
  | 8 => k = 3
  | _ => false

/-- The new words of VC and VD in row `k` (R174). -/
def swapPair (mod1 : Mode) (k : Nat) (c d : Word) : Word × Word :=
  if mod1 = 0#4 then (d, c)
  else
    let lo := if smGt c d then d else c
    let hi := if smGt c d then c else d
    if swapMin mod1 k then (hi, lo) else (lo, hi)

/-- SFPSWAP (R174, R175). -/
def execSfpswap (vc vd : Reg) (mod1 : Mode) (s : State) : Result :=
  let pair := fun l => swapPair mod1 (laneRow l) (s.lreg vc l) (s.lreg vd l)
  admitted (.sfpswap vc vd mod1) <|
    refuseIf ((List.finRange Config.nLanes).any fun l => enableDestIndex (s.lane l).laneConfig) .destIndexSwap <|
    issue s (if mod1 = 0#4 then [] else [vc, vd]) <|
    .next (((s.writeLanes (fun _ => vc) fun l => (pair l).1).writeLanes (fun _ => vd) fun l => (pair l).2).retire
      (regSet fun r => r == vc || r == vd))

/-! ## Conversions -/

/-- SFPCAST (R176): mode 1 also moves the PRNG of the enabled lanes. -/
def execSfpcast (vc vd : Reg) (mod1 : Mode) (s : State) : Result :=
  let t := s.writeLanes (fun _ => vd) fun l =>
    castLane mod1 (s.lreg vc l) (s.lane l).prng (Config.drawSign s.pos l.val)
  admitted (.sfpcast vc vd mod1) <| issue s [] <|
    .next ((if mod1 = 1#4 then t.setPrng fun l => Config.castRnsPrng (s.lreg vc l) (s.lane l).prng else t).retire [])

/-- The shift amount of SFPSTOCHRND's flavor C: `Imm5`, or the low five bits of the lane of VB (R181). -/
def rndShift (imm5 : BitVec 5) (useImm5 : BitVec 1) (b : Word) : Nat :=
  if useImm5 = 1#1 then imm5.toNat else b.toNat % 32

/-- SFPSTOCHRND (R178): `RoundingMode = 1` also moves the PRNG of the enabled lanes; the result is pending
(`70_reset_and_hazards.md` R272). -/
def execSfpstochrnd (roundingMode : BitVec 2) (imm5 : BitVec 5) (vb vc vd : Reg) (mod1 : BitVec 3) (useImm5 : BitVec 1)
    (s : State) : Result :=
  let sh := fun l => rndShift imm5 useImm5 (s.lreg vb l)
  let t := s.writeLanes (fun _ => vd) fun l =>
    stochRndLane mod1 roundingMode (s.lreg vc l) (sh l) (s.lane l).prng (Config.drawSign s.pos l.val)
  let u := if roundingMode = 1#2 then
      t.setPrng fun l => Config.stochRndPrng mod1 (s.lreg vc l) (discardedBits mod1 (s.lreg vc l) (sh l)) (s.lane l).prng
    else t
  admitted (.sfpstochrnd roundingMode imm5 vb vc vd mod1 useImm5) <| issue s [] <|
    .next (u.retire (pendingDst false vd))

/-- The word SFPARECIP gives (R183), from the words of VC and VB. -/
def arecipValue (mod1 : Mode) (c b : Word) : Word :=
  let a := c &&& 0x7FFFFFFF#32
  if mod1 = 0#4 then mkSm (signOf c) (magOf (approxRecip a))
  else if mod1 = 1#4 then (if isNeg b then approxRecip a else c)
  else mkSm (signOf c) (magOf (approxExp a))

/-- SFPARECIP (R183). -/
def execSfparecip (vb vc vd : Reg) (mod1 : Mode) (s : State) : Result :=
  lanewise (.sfparecip vb vc vd mod1) [] s vd fun l => arecipValue mod1 (s.lreg vc l) (s.lreg vb l)

end Sys2Proof.Machine
end

