-- ==== Sys2Proof/Machine/FpFields.lean ====
section
/-! DEFINITION. The FP32 field instructions (`42_fp_fields.md` R130 to R136): bit fields are cut and pasted, nothing
is rounded, flushed or canonicalised. -/

namespace Sys2Proof.Machine

/-- The word SFPDIVP2 gives (R130): `Imm8` added to the exponent modulo 256, except at 255, or put in its place. -/
def divp2 (imm8 : BitVec 8) (add : Bool) (c : Word) : Word :=
  mkFp (signOf c) (if add then (if expOf c = 255#8 then expOf c else expOf c + imm8) else imm8) (manOf c)

/-- SFPDIVP2 (R130). -/
def execSfpdivp2 (imm8 : BitVec 8) (vc vd : Reg) (mod1 : Mode) (s : State) : Result :=
  lanewise (.sfpdivp2 imm8 vc vd mod1) [] s vd fun l => divp2 imm8 (bit mod1 0) (s.lreg vc l)

/-- The exponent field as an integer, less the bias 127 unless `nodebias` (R131). -/
def exexp (nodebias : Bool) (c : Word) : Word := (expOf c).zeroExtend 32 - if nodebias then 0#32 else 127#32

/-- SFPEXEXP (R131): the flag is written only with VD below 8 and bit 1 or bit 3. -/
def execSfpexexp (vc vd : Reg) (mod1 : Mode) (s : State) : Result :=
  lanewiseFlag (.sfpexexp vc vd mod1) [] s vd (fun l => exexp (bit mod1 0) (s.lreg vc l))
    (isGpr vd && (bit mod1 1 || bit mod1 3))
    fun l => ccFlag (bit mod1 1) (bit mod1 3) (s.lane l).laneFlag (isNeg (exexp (bit mod1 0) (s.lreg vc l)))

/-- SFPEXMAN (R132): the mantissa, with bit 23 set unless `Mod1` bit 0. -/
def execSfpexman (vc vd : Reg) (mod1 : Mode) (s : State) : Result :=
  lanewise (.sfpexman vc vd mod1) [] s vd fun l =>
    (if bit mod1 0 then 0#32 else 0x00800000#32) + (manOf (s.lreg vc l)).zeroExtend 32

/-- SFPSETEXP (R133): `{VC.Sign, e, VC.Man}` with `e` from VD's low bits, the immediate, or VD's exponent. -/
def execSfpsetexp (imm8 : BitVec 8) (vc vd : Reg) (mod1 : Mode) (s : State) : Result :=
  lanewise (.sfpsetexp imm8 vc vd mod1) [] s vd fun l =>
    mkFp (signOf (s.lreg vc l))
      (if mod1 = 0#4 then (s.lreg vd l).extractLsb' 0 8 else if mod1 = 1#4 then imm8 else expOf (s.lreg vd l))
      (manOf (s.lreg vc l))

/-- SFPSETMAN (R135): `{VC.Sign, VC.Exp, m}` with `m` the immediate at the top of the mantissa, or VD's mantissa. -/
def execSfpsetman (imm12 : BitVec 12) (vc vd : Reg) (mod1 : Mode) (s : State) : Result :=
  lanewise (.sfpsetman imm12 vc vd mod1) [] s vd fun l =>
    mkFp (signOf (s.lreg vc l)) (expOf (s.lreg vc l)) (if bit mod1 0 then imm12 ++ 0#11 else manOf (s.lreg vd l))

/-- SFPSETSGN (R134): `{s, VC[30:0]}` with `s` the immediate or VD's sign. -/
def execSfpsetsgn (imm1 : BitVec 1) (vc vd : Reg) (mod1 : Mode) (s : State) : Result :=
  lanewise (.sfpsetsgn imm1 vc vd mod1) [] s vd fun l =>
    mkSm (if bit mod1 0 then imm1 = 1#1 else signOf (s.lreg vd l)) (magOf (s.lreg vc l))

/-- The absolute value of SFPABS (R136): two's complement, or FP32 with "-NaN is left as -NaN". -/
def absWord (float : Bool) (c : Word) : Word :=
  if float then (if isNan c then c else c &&& 0x7FFFFFFF#32) else intAbs c

/-- SFPABS (R136). -/
def execSfpabs (vc vd : Reg) (mod1 : Mode) (s : State) : Result :=
  lanewise (.sfpabs vc vd mod1) [] s vd fun l => absWord (bit mod1 0) (s.lreg vc l)

end Sys2Proof.Machine
end

