-- ==== Sys2Proof/Machine/IntegerLogic.lean ====
section
/-! DEFINITION. Integer, logic and shift instructions (`43_integer_logic.md` R150 to R157), with the reads the hardware's
stall logic does not detect (`70_reset_and_hazards.md` R266). -/

namespace Sys2Proof.Machine

/-- The result of SFPIADD on one lane (R150): the immediate form wins, the subtraction is VC - VD. -/
def iaddValue (imm12 : BitVec 12) (mod1 : Mode) (c d : Word) : Word :=
  if bit mod1 0 then c + sext12 imm12 else if bit mod1 1 then c - d else c + d

/-- SFPIADD (R150): the flag is written only with VD below 8 and `Mod1 & 12` other than 4. -/
def execSfpiadd (imm12 : BitVec 12) (vc vd : Reg) (mod1 : Mode) (s : State) : Result :=
  lanewiseFlag (.sfpiadd imm12 vc vd mod1) (if bit mod1 0 then [] else [vd]) s vd
    (fun l => iaddValue imm12 mod1 (s.lreg vc l) (s.lreg vd l))
    (isGpr vd && (!bit mod1 2 || bit mod1 3))
    fun l => ccFlag (!bit mod1 2) (bit mod1 3) (s.lane l).laneFlag
      (isNeg (iaddValue imm12 mod1 (s.lreg vc l) (s.lreg vd l)))

/-- SFPAND (R151): VD & VC, or VB & VC with `USE_VB`. -/
def execSfpand (vb vc vd : Reg) (mod1 : Mode) (s : State) : Result :=
  lanewise (.sfpand vb vc vd mod1) (if bit mod1 0 then [vb] else []) s vd fun l =>
    s.lreg (if bit mod1 0 then vb else vd) l &&& s.lreg vc l

/-- SFPOR (R152): VD | VC, or VB | VC with `USE_VB`. -/
def execSfpor (vb vc vd : Reg) (mod1 : Mode) (s : State) : Result :=
  lanewise (.sfpor vb vc vd mod1) (if bit mod1 0 then [vb] else []) s vd fun l =>
    s.lreg (if bit mod1 0 then vb else vd) l ||| s.lreg vc l

/-- SFPXOR (R153): VD ^ VC. -/
def execSfpxor (vc vd : Reg) (mod1 : Mode) (s : State) : Result :=
  lanewise (.sfpxor vc vd mod1) [] s vd fun l => s.lreg vd l ^^^ s.lreg vc l

/-- SFPNOT (R154): ~VC. -/
def execSfpnot (vc vd : Reg) (mod1 : Mode) (s : State) : Result :=
  lanewise (.sfpnot vc vd mod1) [] s vd fun l => ~~~(s.lreg vc l)

/-- The operand SFPLZ counts in: VC, without its sign bit under `NOSGN_MASK` (R155). -/
def lzOperand (mod1 : Mode) (c : Word) : Word := if bit mod1 2 then c &&& 0x7FFFFFFF#32 else c

/-- SFPLZ (R155): the flag is written only with VD below 8 and bit 1 or bit 3. -/
def execSfplz (vc vd : Reg) (mod1 : Mode) (s : State) : Result :=
  lanewiseFlag (.sfplz vc vd mod1) [] s vd (fun l => clz32 (lzOperand mod1 (s.lreg vc l)))
    (isGpr vd && (bit mod1 1 || bit mod1 3))
    fun l => ccFlag (bit mod1 1) (bit mod1 3) (s.lane l).laneFlag (lzOperand mod1 (s.lreg vc l) ≠ 0#32)

/-- A shift by a signed amount (R156): left by its low five bits if it is not negative, else right by the low five
bits of its negation. -/
def shiftBy (arithmetic : Bool) (x amount : Word) : Word :=
  if isNeg amount then
    let n := (0#32 - amount).toNat % 32
    if arithmetic then x.sshiftRight n else x >>> n
  else x <<< (amount.toNat % 32)

/-- SFPSHFT (R156). VD is read unless `Mod1 & 5 = 5`. -/
def execSfpshft (imm12 : BitVec 12) (vc vd : Reg) (mod1 : Mode) (s : State) : Result :=
  lanewise (.sfpshft imm12 vc vd mod1) (if bit mod1 0 && bit mod1 2 then [] else [vd]) s vd fun l =>
    shiftBy (bit mod1 1) (s.lreg (if bit mod1 0 && bit mod1 2 then vc else vd) l)
      (if bit mod1 0 then sext12 imm12 else s.lreg vc l)

/-! ## SFPSHFT2 -/

/-- `ror1` (R157): lane `8k` gets lane `8k+7`, lane `8k+j` gets lane `8k+j-1`. -/
def ror1 (v : LaneIx → Word) (l : LaneIx) : Word :=
  v ⟨laneRow l * Config.gridCols + (l.val + (Config.gridCols - 1)) % Config.gridCols, by
    simp only [laneRow, Config.gridCols]; omega⟩

/-- `shr1` (R157): as `ror1`, but the first lane of each group becomes 0. -/
def shr1 (v : LaneIx → Word) (l : LaneIx) : Word := if l.val % Config.gridCols = 0 then 0#32 else ror1 v l

/-- `up8` (R157): lane `l` gets lane `l + 8`; the last row becomes 0 (log entry 33). -/
def up8 (v : LaneIx → Word) (l : LaneIx) : Word :=
  if h : l.val + Config.gridCols < Config.nLanes then v ⟨l.val + Config.gridCols, h⟩ else 0#32

/-- `COPY4` (R157): L0 <- L1, L1 <- L2, L2 <- L3, L3 <- `new3`, in enabled lanes, all sources read first. -/
def copy4 (s : State) (new3 : LaneIx → Word) : State :=
  (((s.writeLanes (fun _ => 0#4) (s.lreg 1)).writeLanes (fun _ => 1#4) (s.lreg 2)).writeLanes
    (fun _ => 2#4) (s.lreg 3)).writeLanes (fun _ => 3#4) new3

/-- The registers SFPSHFT2 reads without the stall logic detecting it (R266); VB is `X & 15`. -/
def shft2Reads (x : BitVec 12) (vc : Reg) (mod1 : Mode) : List Reg :=
  if mod1 = 2#4 then [vc, 1#4, 2#4, 3#4]
  else if mod1 = 3#4 ∨ mod1 = 4#4 then [vc]
  else if mod1 = 5#4 ∨ mod1 = 6#4 then [x.extractLsb' 0 4]
  else []

/-- The state SFPSHFT2 leaves, before it retires (R157). -/
def shft2State (x : BitVec 12) (vc vd : Reg) (mod1 : Mode) (s : State) : State :=
  let b := s.lreg (x.extractLsb' 0 4)
  if mod1 = 0#4 then copy4 s fun _ => 0#32
  else if mod1 = 1#4 then copy4 s (up8 (s.lreg 0))
  else if mod1 = 2#4 then copy4 s (ror1 (s.lreg vc))
  else if mod1 = 3#4 then s.writeLanes (fun _ => vd) (ror1 (s.lreg vc))
  else if mod1 = 4#4 then s.writeLanes (fun _ => vd) (shr1 (s.lreg vc))
  else if mod1 = 5#4 then s.writeLanes (fun _ => vd) fun l => shiftBy false (b l) (s.lreg vc l)
  else s.writeLanes (fun _ => vd) fun l => shiftBy false (b l) (sext12 x)

/-- `pending` after SFPSHFT2 (`70_reset_and_hazards.md` R263). -/
def shft2Pending (vd : Reg) (mod1 : Mode) : List Reg :=
  regSet fun r => if mod1 = 2#4 then r < 4#4 else (mod1 = 3#4 || mod1 = 4#4) && r == vd

/-- SFPSHFT2 (R157): after modes 2, 3, 4 the next instruction must be SFPNOP (`70_reset_and_hazards.md` R268). -/
def execSfpshft2 (x : BitVec 12) (vc vd : Reg) (mod1 : Mode) (s : State) : Result :=
  admitted (.sfpshft2 x vc vd mod1) <| issue s (shft2Reads x vc mod1) <|
    .next (((shft2State x vc vd mod1 s).retire (shft2Pending vd mod1)).requireNop
      (mod1 = 2#4 || mod1 = 3#4 || mod1 = 4#4))

end Sys2Proof.Machine
end

