-- ==== Sys2Proof/Machine/Dest.lean ====
section
/-! DEFINITION. Dest as SFPLOAD and SFPSTORE reach it: the effective address (`20_memory.md` R42), the lane to cell
map (R44), the two views (R41), the shuffles (R47), and the conversions of `40_load_store.md` R93 and R97. -/

namespace Sys2Proof.Machine

/-! ## Addressing -/

/-- The mode an instruction uses: `Mod0 = 0` (`MOD0_FMT_SRCB`) resolves by `ALU_FORMAT_SPEC_REG` (R90; log entry
14). -/
def resolveMode (s : State) (mod0 : Mode) : Mode :=
  if mod0 = 0#4 then
    match s.tensix.aluFormatSpec with
    | .fp16 => 1#4
    | .bf16 => 2#4
    | .fp32 => 3#4
  else mod0

/-- `Addr`, 10 bits; the mask 3 applies to the `Sp` term alone (R42, conflict C1). -/
def destAddr (s : State) (imm10 : BitVec 10) : Nat :=
  (imm10.toNat + s.tensix.mathOffset + s.rwc.dst + s.tensix.destRegwBase
    + (s.rwc.sp + s.tensix.destSpBase) % 4) % 2 ^ Config.addrBits

/-- The row of lane `l`: `(addr & ~3) + l div 8` (R44). -/
def destRow (addr : Nat) (l : LaneIx) : Nat := addr / 4 * 4 + laneRow l

/-- The column of lane `l`: odd where `addr & 2` or `exchange` (R44). -/
def destCol (addr : Nat) (exchange : Bool) (l : LaneIx) : Nat :=
  l.val % Config.gridCols * 2 + (if addr / 2 % 2 = 1 ∨ exchange then 1 else 0)

/-- The key of a cell of the 16-bit view. -/
def cellKey (row col : Nat) : Nat := row * Config.dstCols + col

/-- The modes that use the 32-bit view on a load (R93). -/
def loads32 (mode : Mode) : Bool := mode = 3#4 || mode = 4#4 || mode = 12#4

/-- The modes that use the 32-bit view on a store (R97, conflict C17). -/
def stores32 (mode : Mode) : Bool := loads32 mode || mode = 7#4 || mode = 9#4

/-- The pair of a 32-bit cell that the overlay does not list: the candidate that R41 names
(`93_implementation_defined.md` G3; PRESUMED, log entry 11). -/
def candidatePair (row col : Nat) : CellPair := { hi := (row, col), lo := (row + Config.dst32Rows, col) }

/-- `DST32_OVERLAY(row, col)` (R41). -/
def Overlay.pair (o : Overlay) (row col : Nat) : CellPair := (o.lookup (row, col)).getD (candidatePair row col)

/-- The keys of the cells that hold bits 31:16 and bits 15:0 of a 32-bit cell. -/
def Overlay.halfKeys (o : Overlay) (row col : Nat) : Nat × Nat :=
  let p := o.pair row col
  (cellKey p.hi.1 p.hi.2, cellKey p.lo.1 p.lo.2)

/-- A cell of the 32-bit view: none if nothing has defined one of its halves. -/
def Memory.read32 (o : Overlay) (m : Memory) (row col : Nat) : Option Word :=
  match m.read (o.halfKeys row col).1, m.read (o.halfKeys row col).2 with
  | some hi, some lo => some (hi ++ lo)
  | _, _ => none

/-- A write of a cell of the 32-bit view. -/
def Memory.write32 (o : Overlay) (m : Memory) (row col : Nat) (d : Word) : Memory :=
  (m.write (o.halfKeys row col).1 (hi16 d)).write (o.halfKeys row col).2 (lo16 d)

/-! ## Shuffles (R47) -/

def shuffle32 (w : Word) : Word :=
  w.extractLsb' 31 1 ++ w.extractLsb' 16 7 ++ w.extractLsb' 23 8 ++ w.extractLsb' 0 16

def unshuffle32 (d : Word) : Word :=
  d.extractLsb' 31 1 ++ d.extractLsb' 16 8 ++ d.extractLsb' 24 7 ++ d.extractLsb' 0 16

def shuffle16 (h : Half) : Half := h.extractLsb' 15 1 ++ h.extractLsb' 0 7 ++ h.extractLsb' 7 8

def unshuffle16 (c : Half) : Half := c.extractLsb' 15 1 ++ c.extractLsb' 0 8 ++ c.extractLsb' 8 7

/-! ## SFPLOAD (R93) -/

/-- Mode 1: `{S, Man(10), Exp(5)}`; the exponents 0 and 31 are free (`FP16_LOAD_EDGE`, log entry 23). -/
def fp16Load (c : Half) : Word :=
  let e := c.extractLsb' 0 5
  if e = 0#5 ∨ e = 31#5 then Config.fp16LoadEdge c else rebias (c.getLsbD 15) e (c.extractLsb' 5 10)

/-- Modes 5 and 13: a free sign-magnitude word of magnitude at most 255 (`INT8_LOAD`, log entry 24). -/
def int8Load (c : Half) : Word := mkSm (Config.int8Load c).1 ((Config.int8Load c).2.zeroExtend 31)

/-- `LoadConv` of the modes that read a 16-bit cell `c`; `old` is the old lane (R93). -/
def loadConv16 (mode : Mode) (c : Half) (old : Word) : Word :=
  match mode.toNat with
  | 1 => fp16Load c
  | 2 => unshuffle16 c ++ 0#16
  | 5 => int8Load c
  | 7 => c ++ 0#16
  | 8 => mkSm (c.getLsbD 15) ((c.extractLsb' 0 15).zeroExtend 31)
  | 13 => int8Load c
  | 14 => hi16 old ++ c
  | 15 => c ++ lo16 old
  | _ => c.zeroExtend 32

/-- The value SFPLOAD writes (R93): none if the cell holds no value (R94 (3)). Mode 11 reads no cell. -/
def loadConv (o : Overlay) (m : Memory) (mode : Mode) (row col : Nat) (old : Word) : Option Word :=
  if mode = 11#4 then some 0#32
  else if loads32 mode then (m.read32 o row col).map unshuffle32
  else (m.read (cellKey row col)).map fun c => loadConv16 mode c old

/-! ## SFPSTORE (R97) -/

/-- Mode 1: exact where the value is an FP16 number, else free (`FP16_STORE`, log entry 23). -/
def fp16Store (w : Word) : Half :=
  if 113#8 ≤ expOf w ∧ expOf w ≤ 142#8 ∧ w.extractLsb' 0 13 = 0#13 then
    BitVec.ofBool (signOf w) ++ w.extractLsb' 13 10 ++ (expOf w - 112#8).extractLsb' 0 5
  else Config.fp16Store w

/-- `StoreConv` of the modes that write a 16-bit cell (R97); `free` is the `draw(16)` of mode 8 (log entry 28). -/
def storeConv16 (mode : Mode) (w : Word) (free : Half) : Half :=
  match mode.toNat with
  | 1 => fp16Store w
  | 2 => shuffle16 (hi16 (flush w))
  | 5 => Config.int8Store w
  | 8 => if w.extractLsb' 15 16 = 0#16 then w.extractLsb' 31 1 ++ w.extractLsb' 0 15 else free
  | 13 => Config.int8Store w
  | 15 => hi16 w
  | _ => lo16 w

/-- `StoreConv` of the modes that write a 32-bit cell (R97); `free` is the `draw(16)` of mode 7. -/
def storeConv32 (mode : Mode) (w : Word) (free : Half) : Word :=
  match mode.toNat with
  | 3 => shuffle32 (flush w)
  | 7 => hi16 w ++ free
  | 9 => lo16 w ++ hi16 w
  | _ => shuffle32 w

/-- The cells one lane writes (R97). -/
def storeLane (o : Overlay) (m : Memory) (mode : Mode) (row col : Nat) (w : Word) (free : Half) : Memory :=
  if stores32 mode then m.write32 o row col (storeConv32 mode w free)
  else m.write (cellKey row col) (storeConv16 mode w free)

/-- Dest after the enabled lanes have stored `LReg[vd]` (R95). No two lanes reach the same cell (R44). -/
def storeLanes (s : State) (mode : Mode) (addr : Nat) (vd : Reg) : Memory :=
  (List.finRange Config.nLanes).foldl (fun m l =>
    if laneEnabled s l then
      storeLane s.overlay m mode (destRow addr l) (destCol addr false l) (s.lreg vd l) (Config.drawHalf s.pos l.val)
    else m) s.dest

end Sys2Proof.Machine
end

