-- ==== Sys2Proof/Machine/LoadStore.lean ====
section
/-! DEFINITION. SFPLOAD and SFPSTORE (`40_load_store.md` R92 to R97). -/

namespace Sys2Proof.Machine

/-- Lane `l` of an access that uses the 32-bit view lies at row 512 or above (R91). -/
def beyondView (view32 : Bool) (addr : Nat) (l : LaneIx) : Bool := view32 && Config.dst32Rows ≤ destRow addr l

/-- The value SFPLOAD has for lane `l` (R92, R93). -/
def loadValue (s : State) (vd : Reg) (mode : Mode) (addr : Nat) (l : LaneIx) : Option Word :=
  loadConv s.overlay s.dest mode (destRow addr l) (destCol addr s.tensix.destRdColExchange l) (s.lreg vd l)

/-- SFPLOAD (R92 to R94): Dest to `LReg[VD]`. With VD 8 to 15 it "does nothing at all". -/
def execSfpload (vd : Reg) (mod0 : Mode) (addrMod : BitVec 3) (imm10 : BitVec 10) (s : State) : Result :=
  let mode := resolveMode s mod0
  let addr := destAddr s imm10
  admitted (.sfpload vd mod0 addrMod imm10) <| issue s [] <|
    if !isGpr vd then .next (s.retire [])
    else
      faultIf (fun l => laneEnabled s l && !beyondView (loads32 mode) addr l && (loadValue s vd mode addr l).isNone)
        (.unwrittenRead s.pos) <|
      faultIf (fun l => laneEnabled s l && beyondView (loads32 mode) addr l) (.destRange s.pos) <|
      .next (((s.writeLanes (fun _ => vd) fun l => (loadValue s vd mode addr l).getD 0#32).applyAddrMod addrMod).retire
        [])

/-- SFPSTORE (R95 to R97): `LReg[VD]` to Dest. VD 8 to 11 need `DISABLE_BACKDOOR_LOAD` in every lane (R96). -/
def execSfpstore (vd : Reg) (mod0 : Mode) (addrMod : BitVec 3) (imm10 : BitVec 10) (s : State) : Result :=
  let mode := resolveMode s mod0
  let addr := destAddr s imm10
  admitted (.sfpstore vd mod0 addrMod imm10) <|
    refuseIf (!isGpr vd && (List.finRange Config.nLanes).any fun l => !disableBackdoorLoad (s.lane l).laneConfig) .backdoorStore <|
    issue s [] <|
    faultIf (fun l => laneEnabled s l && beyondView (stores32 mode) addr l) (.destRange s.pos) <|
    .next (({ s with dest := storeLanes s mode addr vd }.applyAddrMod addrMod).retire [])

end Sys2Proof.Machine
end

