-- ==== Sys2Proof/Machine/Mad.lean ====
section
/-! DEFINITION. The MAD sub-unit (`41_mad.md`): SFPMAD, SFPADD, SFPMUL, SFPADDI, SFPMULI, SFPLUTFP32, SFPMUL24. All are
2-cycle producers (R120). -/

namespace Sys2Proof.Machine

/-- A word with its sign bit flipped if `b` (R111: also for NaN and zero). -/
def negIf (b : Bool) (w : Word) : Word := if b then w ^^^ 0x80000000#32 else w

/-- `FMA(±a, b, ±c)` of one lane (R111); VA is indirect with `Mod1` bit 2. -/
def madValue (s : State) (va vb vc : Reg) (mod1 : Mode) (l : LaneIx) : Word :=
  fma (negIf (bit mod1 0) (s.lreg (madDst s (bit mod1 2) va l) l)) (s.lreg vb l) (negIf (bit mod1 1) (s.lreg vc l))

/-- The state change that SFPMAD, SFPADD and SFPMUL share (R111 to R113). -/
def madExec (i : Instr) (va vb vc vd : Reg) (mod1 : Mode) (s : State) : Result :=
  lanewiseTo i [] s (madDst s (bit mod1 3) vd) (madValue s va vb vc mod1) (pendingDst (bit mod1 3) vd)

/-- SFPMAD (R111). -/
def execSfpmad (va vb vc vd : Reg) (mod1 : Mode) (s : State) : Result :=
  madExec (.sfpmad va vb vc vd mod1) va vb vc vd mod1 s

/-- SFPADD (R112): "Semantically identical to SFPMAD." -/
def execSfpadd (va vb vc vd : Reg) (mod1 : Mode) (s : State) : Result :=
  madExec (.sfpadd va vb vc vd mod1) va vb vc vd mod1 s

/-- SFPMUL (R113): "Semantically identical to SFPMAD." -/
def execSfpmul (va vb vc vd : Reg) (mod1 : Mode) (s : State) : Result :=
  madExec (.sfpmul va vb vc vd mod1) va vb vc vd mod1 s

/-- SFPADDI (R114): `BF16ToFP32(Imm16) * 1.0 + (±VD)`; the addend is read from the VD field directly. -/
def execSfpaddi (imm16 : BitVec 16) (vd : Reg) (mod1 : Mode) (s : State) : Result :=
  lanewiseTo (.sfpaddi imm16 vd mod1) [] s (madDst s (bit mod1 3) vd)
    (fun l => fma (bf16ToFp32 imm16) 0x3F800000#32 (negIf (bit mod1 1) (s.lreg vd l)))
    (pendingDst (bit mod1 3) vd)

/-- SFPMULI (R115): `BF16ToFP32(Imm16) * VD + 0.0`. -/
def execSfpmuli (imm16 : BitVec 16) (vd : Reg) (mod1 : Mode) (s : State) : Result :=
  lanewiseTo (.sfpmuli imm16 vd mod1) [] s (madDst s (bit mod1 3) vd)
    (fun l => fma (bf16ToFp32 imm16) (s.lreg vd l) 0#32) (pendingDst (bit mod1 3) vd)

/-! ## SFPLUTFP32 -/

/-- The piece of a 3-entry table: breakpoints 1.0, 2.0 (R118). `b` has its sign cleared. -/
def lut3Piece (b : Word) : Nat := if b < 0x3F800000#32 then 0 else if b < 0x40000000#32 then 1 else 2

/-- The piece of a 6-entry table: breakpoints 0.5, 1.0, 1.5, 2.0 and `last` (R118). -/
def lut6Piece (last b : Word) : Nat :=
  if b < 0x3F000000#32 then 0 else if b < 0x3F800000#32 then 1 else if b < 0x3FC00000#32 then 2
  else if b < 0x40000000#32 then 3 else if b < last then 4 else 5

/-- `LReg[n]` for a small number `n`. -/
def State.lregN (s : State) (n : Nat) (l : LaneIx) : Word := s.lreg (BitVec.ofNat 4 n) l

/-- The coefficient of piece `j` out of a register that two pieces share (R118): which half is which is free
(`LUT6_PACKING`, log entry 27). -/
def lut6Half (swapped : Fin 3 → Bool) (j : Nat) (w : Word) : Word :=
  lut16ToFp32 (if (j % 2 = 1) ^^ swapped (Fin.ofNat 3 (j / 2)) then hi16 w else lo16 w)

/-- `Coeff(table, b, l)`: slope and intercept (R118); `table` is `Mod1 & 0xB` (R116). -/
def lutCoeff (s : State) (table : Mode) (b : Word) (l : LaneIx) : Word × Word :=
  if table = 0#4 ∨ table = 8#4 then
    let i := lut3Piece b
    (s.lregN i l, s.lregN (4 + i) l)
  else if table = 10#4 then
    let w := s.lregN (lut3Piece b) l
    (lut16ToFp32 (hi16 w), lut16ToFp32 (lo16 w))
  else
    let j := lut6Piece (if table = 2#4 then 0x40400000#32 else 0x40800000#32) b
    (lut6Half Config.lut6SlopeSwapped j (s.lregN (j / 2) l),
     lut6Half Config.lut6InterceptSwapped j (s.lregN (4 + j / 2) l))

/-- `d = a * Abs(LReg[3]) + c`, with the sign of `LReg[3]` under `SGN_RETAIN` (R116). -/
def lutValue (s : State) (mod1 : Mode) (l : LaneIx) : Word :=
  let x := s.lreg 3 l
  let b := x &&& 0x7FFFFFFF#32
  let ac := lutCoeff s (mod1 &&& 11#4) b l
  let d := fma ac.1 b ac.2
  if bit mod1 2 then mkSm (signOf x) (magOf d) else d

/-- SFPLUTFP32 (R116). -/
def execSfplutfp32 (vd : Reg) (mod1 : Mode) (s : State) : Result :=
  lanewiseTo (.sfplutfp32 vd mod1) [] s (madDst s (bit mod1 3) vd) (lutValue s mod1) (pendingDst (bit mod1 3) vd)

/-! ## SFPMUL24 -/

/-- The low or the high 23 bits of the product of the low 23 bits (R119). -/
def mul24 (upper : Bool) (a b : Word) : Word :=
  let p := (a.toNat % 2 ^ 23) * (b.toNat % 2 ^ 23)
  BitVec.ofNat 32 (if upper then p / 2 ^ 23 else p % 2 ^ 23)

/-- SFPMUL24 (R119). -/
def execSfpmul24 (va vb vc vd : Reg) (mod1 : Mode) (s : State) : Result :=
  lanewiseTo (.sfpmul24 va vb vc vd mod1) [] s (madDst s (bit mod1 3) vd)
    (fun l => mul24 (bit mod1 0) (s.lreg (madDst s (bit mod1 2) va l) l) (s.lreg vb l)) (pendingDst (bit mod1 3) vd)

end Sys2Proof.Machine
end

