-- ==== Sys2Proof/Machine/MoveConfig.lean ====
section
/-! DEFINITION. Move, load immediate, configuration, no-operation (`45_move_config.md` R200 to R211). -/

namespace Sys2Proof.Machine

/-! ## SFPMOV -/

/-- `Special(VC, l)` (R201): a part of `LoadMacroConfig`, the PRNG before its advance, `LaneConfig`, or 0. -/
def specialSource (lane : Lane) (vc : Reg) : Word :=
  match vc.toNat with
  | 0 => lane.lmc.template[0]
  | 1 => lane.lmc.template[1]
  | 2 => lane.lmc.template[2]
  | 3 => lane.lmc.template[3]
  | 4 => lane.lmc.sequence[0]
  | 5 => lane.lmc.sequence[1]
  | 6 => lane.lmc.sequence[2]
  | 7 => lane.lmc.sequence[3]
  | 8 => lane.lmc.misc.zeroExtend 32
  | 9 => lane.prng
  | 15 => lane.laneConfig.zeroExtend 32
  | _ => 0#32

/-- The word SFPMOV moves in lane `l` (R200). -/
def movValue (s : State) (vc : Reg) (mod1 : Mode) (l : LaneIx) : Word :=
  let x := if bit mod1 3 then specialSource (s.lane l) vc else s.lreg vc l
  if bit mod1 0 then x ^^^ 0x80000000#32 else x

/-- SFPMOV (R200, R201): `Mod1 = 2` ignores predication; special source 9 advances the PRNG of the enabled lanes,
also where the write is dropped. -/
def execSfpmov (vc vd : Reg) (mod1 : Mode) (s : State) : Result :=
  let t := s.writeLanesIf (fun l => laneEnabled s l || mod1 = 2#4) (fun _ => vd) (movValue s vc mod1)
  admitted (.sfpmov vc vd mod1) <| issue s [] <|
    .next ((if bit mod1 3 && vc = 9#4 then t.setPrng fun l => advancePrng (s.lane l).prng else t).retire [])

/-! ## SFPLOADI -/

/-- The word SFPLOADI writes over `old` (R202). -/
def loadiValue (mod0 : Mode) (imm16 : BitVec 16) (old : Word) : Word :=
  match mod0.toNat with
  | 0 => bf16ToFp32 imm16
  | 1 => fp16ImmToFp32 imm16
  | 2 => imm16.zeroExtend 32
  | 4 => imm16.signExtend 32
  | 8 => imm16 ++ lo16 old
  | _ => hi16 old ++ imm16

/-- SFPLOADI (R202). -/
def execSfploadi (vd : Reg) (mod0 : Mode) (imm16 : BitVec 16) (s : State) : Result :=
  lanewise (.sfploadi vd mod0 imm16) [] s vd fun l => loadiValue mod0 imm16 (s.lreg vd l)

/-! ## SFPCONFIG -/

/-- The value comes from the immediate: `MOD1_IMM16_IS_VALUE`, which VD 0 to 3 ignore (R206). -/
def configUsesImm (vd : Reg) (mod1 : Mode) : Bool := bit mod1 0 && vd ≥ 4#4

/-- The value SFPCONFIG has for lane `l` (R206): a fixed constant, the zero-extended immediate, or lane `l mod 8` of
`LReg[0]`. -/
def configValue (imm16 : BitVec 16) (vd : Reg) (mod1 : Mode) (s : State) (l : LaneIx) : Word :=
  if configUsesImm vd mod1 then
    match vd.toNat with
    | 11 => 0xBF800000#32
    | 12 => 0x3B000000#32
    | 13 => 0xBF2CC4C7#32
    | 14 => 0xBEB08FF9#32
    | _ => imm16.zeroExtend 32
  else s.lreg 0 (columnLane l)

/-- Replace, OR or AND, by `Mod1 & 6` (R206, R207). -/
def configCombine (mod1 : Mode) (dst val : Word) : Word :=
  if bit mod1 1 then dst ||| val else if bit mod1 2 then dst &&& val else val

/-- The destination of SFPCONFIG in one lane (R205), cut to its width. VD 9 and 10 are refused. -/
def configLane (vd : Reg) (mod1 : Mode) (val : Word) (lane : Lane) : Lane :=
  let n := vd.toNat
  if h : n < 4 then
    { lane with lmc := { lane.lmc with template := lane.lmc.template.set n (configCombine mod1 lane.lmc.template[n] val) } }
  else if h : n - 4 < 4 then
    { lane with lmc := { lane.lmc with
        sequence := lane.lmc.sequence.set (n - 4) (configCombine mod1 lane.lmc.sequence[n - 4] val) } }
  else if n = 8 then
    { lane with lmc := { lane.lmc with
        misc := (configCombine mod1 (lane.lmc.misc.zeroExtend 32) val).extractLsb' 0 Config.lmcMiscBits } }
  else if n < 11 then lane
  else if h : n - 11 < Config.nPrg then
    { lane with prg := lane.prg.set (n - 11) (configCombine mod1 lane.prg[n - 11] val) }
  else
    { lane with laneConfig := (configCombine mod1 (lane.laneConfig.zeroExtend 32) val).extractLsb' 0 Config.laneConfigBits }

/-- The state SFPCONFIG leaves, before it retires: all 32 lanes (R206). -/
def configState (imm16 : BitVec 16) (vd : Reg) (mod1 : Mode) (s : State) : State :=
  s.mapLanes fun l lane => configLane vd mod1 (configValue imm16 vd mod1 s l) lane

/-- SFPCONFIG (R205 to R208): refused while a lane is disabled; after a write of VD 15 that changes `LaneConfig` in
any lane the next instruction must be SFPNOP (`70_reset_and_hazards.md` R269). -/
def execSfpconfig (imm16 : BitVec 16) (vd : Reg) (mod1 : Mode) (s : State) : Result :=
  let t := configState imm16 vd mod1 s
  admitted (.sfpconfig imm16 vd mod1) <|
    refuseIf ((List.finRange Config.nLanes).any fun l => !laneEnabled s l) .configUnderPredication <|
    issue s (if configUsesImm vd mod1 then [] else [0#4]) <|
    .next ((t.retire []).requireNop
      (vd = 15#4 && (List.finRange Config.nLanes).any fun l => (t.lane l).laneConfig ≠ (s.lane l).laneConfig))

/-! ## SFPNOP, and the two mnemonics without semantics -/

/-- SFPNOP (R209): "no observable effect"; it is what a mandatory SFPNOP asks for. -/
def execSfpnop (s : State) : Result := .next (s.retire [])

/-- SFPTRANSP (R210): "no section, no form, no operands and no semantics anywhere in the source". -/
def execSfptransp (_vc _vd : Reg) (_mod1 : Mode) (_s : State) : Result := .refused (.inadmissible .transpNotDescribed)

/-- SFPLOADMACRO (R211): "no section, no form and no semantics". -/
def execSfploadmacro (_vd : Reg) (_mod0 : Mode) (_addrMod : BitVec 3) (_imm10 : BitVec 10) (_s : State) : Result :=
  .refused (.inadmissible .loadMacroNotDescribed)

end Sys2Proof.Machine
end

