-- ==== Sys2Proof/Machine/Predication.lean ====
section
/-! DEFINITION. Predication (`46_predication.md` R221 to R224): SFPENCC acts on enabled lanes; SFPPUSHC, SFPPOPC and
SFPCOMPC act on all 32 lanes (log entry 34). VD has no effect (R228). -/

namespace Sys2Proof.Machine

/-- SFPENCC (R221). -/
def execSfpencc (imm2 : BitVec 2) (vd : Reg) (mod1 : Mode) (s : State) : Result :=
  admitted (.sfpencc imm2 vd mod1) <| issue s [] <|
    .next ((s.mapLanes fun l lane => if laneEnabled s l then enccLane imm2 mod1 lane else lane).retire [])

/-- SFPPUSHC (R222). -/
def execSfppushc (vd : Reg) (mod1 : Mode) (s : State) : Result :=
  admitted (.sfppushc vd mod1) <| issue s [] <|
    faultIf (fun l => mod1 = 0#4 && Config.stackDepth ≤ (s.lane l).flagStack.length) (.flagStackOverflow s.pos) <|
    faultIf (fun l => mod1 ≠ 0#4 && (s.lane l).flagStack.isEmpty) (.flagStackUnderflow s.pos) <|
    .next ((s.mapLanes fun _ lane => pushLane mod1 lane).retire [])

/-- SFPPOPC (R223): the forms 1 to 12 run where the top entry's enable switch is the current one in every lane. -/
def execSfppopc (vd : Reg) (mod1 : Mode) (s : State) : Result :=
  admitted (.sfppopc vd mod1) <|
    refuseIf (mod1 ≠ 0#4 && mod1 < 13#4 && (List.finRange Config.nLanes).any fun l =>
      (s.lane l).flagStack.head?.any fun top => top.useLaneFlags ≠ (s.lane l).useLaneFlags) .popSwitchMismatch <|
    issue s [] <|
    faultIf (fun l => mod1 < 13#4 && (s.lane l).flagStack.isEmpty) (.flagStackUnderflow s.pos) <|
    .next ((s.mapLanes fun _ lane => popLane mod1 lane).retire [])

/-- SFPCOMPC (R224). -/
def execSfpcompc (vd : Reg) (mod1 : Mode) (s : State) : Result :=
  admitted (.sfpcompc vd mod1) <| issue s [] <| .next ((s.mapLanes fun _ lane => compLane lane).retire [])

end Sys2Proof.Machine
end

