-- ==== Sys2Proof/Machine/Dispatch.lean ====
section
/-! DEFINITION. One arm per instruction, each a call of its meaning. -/

namespace Sys2Proof.Machine

/-- What an instruction does. -/
def exec (i : Instr) (s : State) : Host.Outcome State Fault Refusal :=
  match i with
  | .sfpload vd mod0 addrMod imm10 => Sys2Proof.Machine.execSfpload vd mod0 addrMod imm10 s
  | .sfploadi vd mod0 imm16 => Sys2Proof.Machine.execSfploadi vd mod0 imm16 s
  | .sfpstore vd mod0 addrMod imm10 => Sys2Proof.Machine.execSfpstore vd mod0 addrMod imm10 s
  | .sfpmuli imm16 vd mod1 => Sys2Proof.Machine.execSfpmuli imm16 vd mod1 s
  | .sfpaddi imm16 vd mod1 => Sys2Proof.Machine.execSfpaddi imm16 vd mod1 s
  | .sfpdivp2 imm8 vc vd mod1 => Sys2Proof.Machine.execSfpdivp2 imm8 vc vd mod1 s
  | .sfpexexp vc vd mod1 => Sys2Proof.Machine.execSfpexexp vc vd mod1 s
  | .sfpexman vc vd mod1 => Sys2Proof.Machine.execSfpexman vc vd mod1 s
  | .sfpiadd imm12 vc vd mod1 => Sys2Proof.Machine.execSfpiadd imm12 vc vd mod1 s
  | .sfpshft imm12 vc vd mod1 => Sys2Proof.Machine.execSfpshft imm12 vc vd mod1 s
  | .sfpsetcc imm1 vc vd mod1 => Sys2Proof.Machine.execSfpsetcc imm1 vc vd mod1 s
  | .sfpmov vc vd mod1 => Sys2Proof.Machine.execSfpmov vc vd mod1 s
  | .sfpabs vc vd mod1 => Sys2Proof.Machine.execSfpabs vc vd mod1 s
  | .sfpand vb vc vd mod1 => Sys2Proof.Machine.execSfpand vb vc vd mod1 s
  | .sfpor vb vc vd mod1 => Sys2Proof.Machine.execSfpor vb vc vd mod1 s
  | .sfpnot vc vd mod1 => Sys2Proof.Machine.execSfpnot vc vd mod1 s
  | .sfplz vc vd mod1 => Sys2Proof.Machine.execSfplz vc vd mod1 s
  | .sfpsetexp imm8 vc vd mod1 => Sys2Proof.Machine.execSfpsetexp imm8 vc vd mod1 s
  | .sfpsetman imm12 vc vd mod1 => Sys2Proof.Machine.execSfpsetman imm12 vc vd mod1 s
  | .sfpmad va vb vc vd mod1 => Sys2Proof.Machine.execSfpmad va vb vc vd mod1 s
  | .sfpadd va vb vc vd mod1 => Sys2Proof.Machine.execSfpadd va vb vc vd mod1 s
  | .sfpmul va vb vc vd mod1 => Sys2Proof.Machine.execSfpmul va vb vc vd mod1 s
  | .sfppushc vd mod1 => Sys2Proof.Machine.execSfppushc vd mod1 s
  | .sfppopc vd mod1 => Sys2Proof.Machine.execSfppopc vd mod1 s
  | .sfpsetsgn imm1 vc vd mod1 => Sys2Proof.Machine.execSfpsetsgn imm1 vc vd mod1 s
  | .sfpencc imm2 vd mod1 => Sys2Proof.Machine.execSfpencc imm2 vd mod1 s
  | .sfpcompc vd mod1 => Sys2Proof.Machine.execSfpcompc vd mod1 s
  | .sfptransp vc vd mod1 => Sys2Proof.Machine.execSfptransp vc vd mod1 s
  | .sfpxor vc vd mod1 => Sys2Proof.Machine.execSfpxor vc vd mod1 s
  | .sfpstochrnd roundingMode imm5 vb vc vd mod1 useImm5 => Sys2Proof.Machine.execSfpstochrnd roundingMode imm5 vb vc vd mod1 useImm5 s
  | .sfpnop => Sys2Proof.Machine.execSfpnop s
  | .sfpcast vc vd mod1 => Sys2Proof.Machine.execSfpcast vc vd mod1 s
  | .sfpconfig imm16 vd mod1 => Sys2Proof.Machine.execSfpconfig imm16 vd mod1 s
  | .sfpswap vc vd mod1 => Sys2Proof.Machine.execSfpswap vc vd mod1 s
  | .sfploadmacro vd mod0 addrMod imm10 => Sys2Proof.Machine.execSfploadmacro vd mod0 addrMod imm10 s
  | .sfpshft2 x vc vd mod1 => Sys2Proof.Machine.execSfpshft2 x vc vd mod1 s
  | .sfplutfp32 vd mod1 => Sys2Proof.Machine.execSfplutfp32 vd mod1 s
  | .sfple vc vd mod1 => Sys2Proof.Machine.execSfple vc vd mod1 s
  | .sfpgt vc vd mod1 => Sys2Proof.Machine.execSfpgt vc vd mod1 s
  | .sfpmul24 va vb vc vd mod1 => Sys2Proof.Machine.execSfpmul24 va vb vc vd mod1 s
  | .sfparecip vb vc vd mod1 => Sys2Proof.Machine.execSfparecip vb vc vd mod1 s

end Sys2Proof.Machine
end

