-- ==== Sys2Proof/Machine/Step.lean ====
section
/-! DEFINITION. One step: the stream is checked before it starts, and the next instruction of the stream is delivered, decoded and executed (`10_state.md` R28,
R29; `70_reset_and_hazards.md` R262). -/

namespace Sys2Proof.Machine

/-- One step under a binary encoding. A stream with a word outside the admitted subset is refused before it starts, at
`pos = 0` (`60_exceptions.md` R243, R262). At the end of the stream the run is over and a step changes nothing (R262,
log entry 2). A word that is no instruction of the SFPU is refused (`30_encoding.md` R75) wherever it stands. -/
def stepWith (enc : Encoding) (s : State) : Host.Outcome State Fault Refusal :=
  match if s.pos = 0 then streamRefusal enc s.program else none with
  | some r => .refused r
  | none =>
    match fetch s with
    | none => .next s
    | some d =>
      match enc.decode d.word with
      | .error e => .refused (.undecodable e)
      | .ok i => exec i (s.deliver d)

/-- One step of this machine. -/
def step (s : State) : Host.Outcome State Fault Refusal := stepWith Config.enc s

/-- `s` with a stream loaded in which the instruction whose bits are `w` is the next one. The stream is a new one: a
word left from the old one could have the whole stream refused (R243). -/
def State.withFetchWord (s : State) (nbits w : Nat) : State :=
  { s with program := placeAt s.pos (BitVec.ofNat 32 (w % 2 ^ nbits)) }

end Sys2Proof.Machine
end

