-- ==== Sys2Proof/WellFormed.lean ====
section
/-! DEFINITION. Well-formed instructions: the admitted subset as far as it depends on the instruction alone
(`60_exceptions.md` R243). The widths of the operands are in the types of `Instr`. -/

namespace Sys2Proof

/-- The instruction's operand form is one the spec gives a meaning (R243, R75). -/
def Instr.wellFormed (i : Instr) : Bool := (Machine.formError i).isNone

end Sys2Proof
end

