-- ==== Sys2Proof/Safety.lean ====
section
/-! DEFINITION. The terms in which statements speak of the machine: the invariant that every step keeps, the admitted
stream (`60_exceptions.md` R243), and the parts of the state that an instruction leaves alone. -/

namespace Sys2Proof.Machine

/-! ## The overlay of the two views of Dest -/

/-- What makes a function a `DST32_OVERLAY` (`20_memory.md` R41, R52; DEDUCED, log entry 43): the 512 by 16 cells of the 32-bit
view are made of cells of the array, and no two of their halves are the same cell. -/
structure LawfulOverlay (o : Overlay) : Prop where
  inside : ∀ r c, r < Config.dst32Rows → c < Config.dstCols →
    (o.halfKeys r c).1 < Config.dstRows * Config.dstCols ∧ (o.halfKeys r c).2 < Config.dstRows * Config.dstCols
  halves : ∀ r c r' c', r < Config.dst32Rows → c < Config.dstCols → r' < Config.dst32Rows → c' < Config.dstCols →
    (o.halfKeys r c).1 ≠ (o.halfKeys r' c').2
  cells : ∀ r c r' c', r < Config.dst32Rows → c < Config.dstCols → r' < Config.dst32Rows → c' < Config.dstCols →
    (o.halfKeys r c).1 = (o.halfKeys r' c').1 ∨ (o.halfKeys r c).2 = (o.halfKeys r' c').2 → r = r' ∧ c = c'

/-! ## The invariant -/

/-- What holds of the state after reset and after every step.
* `dest`: Dest is in its canonical form, inside the array (`20_memory.md` R40).
* `depth`, `level`: a flag stack has at most 8 entries, and all 32 depths are equal (`10_state.md` R22).
* `config`: `LaneConfig[l] = LaneConfig[l mod 8]` (R25).
* `constants`: `LReg[11..14][l] = LReg[11..14][l mod 8]` (R13).
* `macros`: the same of `LoadMacroConfig`, which SFPCONFIG alone writes (R26).
* `pending`: a rising list of registers 0 to 7 (R31, `70_reset_and_hazards.md` R263).
* `pos`: the position is at most the length of the stream (R262).
* `overlay`: the overlay of the two views of Dest is one (`20_memory.md` R41; log entry 43). -/
structure Inv (s : State) : Prop where
  dest : s.dest.wf
  depth : ∀ l : LaneIx, (s.lane l).flagStack.length ≤ Config.stackDepth
  level : ∀ l k : LaneIx, (s.lane l).flagStack.length = (s.lane k).flagStack.length
  config : ∀ l : LaneIx, (s.lane l).laneConfig = (s.lane (columnLane l)).laneConfig
  constants : ∀ l : LaneIx, (s.lane l).prg = (s.lane (columnLane l)).prg
  macros : ∀ l : LaneIx, (s.lane l).lmc = (s.lane (columnLane l)).lmc
  pending : s.pending = regSet fun r => s.pending.contains r
  pos : s.pos ≤ s.program.length
  overlay : LawfulOverlay s.overlay

/-- Every word of the stream is an instruction whose operand form the spec gives a meaning (R243: "the model
refuses the whole stream before running it" otherwise, and so does `step`). -/
def AdmittedStream (program : List Delivery) : Prop :=
  ∀ d ∈ program, ∃ i, decode d.word = .ok i ∧ i.wellFormed = true

/-! ## Frames -/

/-- `LReg` (all of 0 to 15) is unchanged, except where `except` says so. -/
def KeepsRegs (s t : State) (except : LaneIx → Reg → Prop) : Prop :=
  ∀ l r, ¬except l r → t.lreg r l = s.lreg r l

/-- `LaneFlags` is unchanged in every lane. -/
def KeepsFlags (s t : State) : Prop := ∀ l : LaneIx, (t.lane l).laneFlag = (s.lane l).laneFlag

/-- `UseLaneFlagsForLaneEnable` is unchanged in every lane. -/
def KeepsSwitch (s t : State) : Prop := ∀ l : LaneIx, (t.lane l).useLaneFlags = (s.lane l).useLaneFlags

/-- `FlagStack` is unchanged in every lane. -/
def KeepsStack (s t : State) : Prop := ∀ l : LaneIx, (t.lane l).flagStack = (s.lane l).flagStack

/-- `LaneConfig` is unchanged in every lane. -/
def KeepsLaneConfig (s t : State) : Prop := ∀ l : LaneIx, (t.lane l).laneConfig = (s.lane l).laneConfig

/-- `LoadMacroConfig` is unchanged in every lane. -/
def KeepsMacros (s t : State) : Prop := ∀ l : LaneIx, (t.lane l).lmc = (s.lane l).lmc

/-- `LReg[16]` is unchanged in every lane. -/
def KeepsR16 (s t : State) : Prop := ∀ l : LaneIx, (t.lane l).r16 = (s.lane l).r16

/-- `PRNG_State` is unchanged in every lane. -/
def KeepsPrng (s t : State) : Prop := ∀ l : LaneIx, (t.lane l).prng = (s.lane l).prng

/-- Every cell of Dest reads as before, except the keys that `except` gives. -/
def KeepsDest (s t : State) (except : Nat → Prop) : Prop := ∀ k, ¬except k → t.dest.read k = s.dest.read k

/-- The Tensix inputs, the thread, the overlay and the stream are unchanged. -/
def KeepsOutside (s t : State) : Prop := t.tensix = s.tensix ∧ t.thread = s.thread ∧ t.overlay = s.overlay ∧
  t.program = s.program

/-- `pos` moves on by one; `pending` and the demand for an SFPNOP are as given. -/
def Advances (s t : State) (pending : List Reg) (nop : Bool) : Prop :=
  t.pos = s.pos + 1 ∧ t.pending = pending ∧ t.nopRequired = nop

/-- What every instruction but SFPCONFIG, SFPLOAD and SFPSTORE leaves alone. -/
def KeepsStorage (s t : State) : Prop :=
  KeepsLaneConfig s t ∧ KeepsMacros s t ∧ KeepsR16 s t ∧ KeepsDest s t (fun _ => False) ∧ KeepsOutside s t

/-- `t` is `s` after an instruction that writes at most `LReg[dst l][l]`, in lanes that `en` picks, and nothing else. -/
def WritesOnly (s t : State) (en : LaneIx → Bool) (dst : LaneIx → Reg) : Prop :=
  KeepsRegs s t (fun l r => en l = true ∧ r = dst l ∧ dst l < 8#4) ∧ KeepsFlags s t ∧ KeepsSwitch s t ∧
    KeepsStack s t ∧ KeepsPrng s t ∧ KeepsStorage s t

/-- `LReg[dst l][l]` holds `val l` wherever `en` picks the lane and the destination is 0 to 7 (R16). -/
def Written (t : State) (en : LaneIx → Bool) (dst : LaneIx → Reg) (val : LaneIx → Word) : Prop :=
  ∀ l, en l = true → dst l < 8#4 → t.lreg (dst l) l = val l

/-- No SFPNOP is demanded, and none of `reads` is pending: the instruction may issue (`70_reset_and_hazards.md` R265,
R268). -/
def MayIssue (s : State) (reads : List Reg) : Prop :=
  s.nopRequired = false ∧ ∀ r ∈ reads, r ∉ s.pending

/-- Wherever it may issue, `i` completes, and what follows holds of the next state. -/
def Completes (i : Instr) (s : State) (reads : List Reg) (post : State → Prop) : Prop :=
  MayIssue s reads → ∃ t, exec i s = .next t ∧ post t

/-- `i` completes, puts `val l` into `LReg[dst l][l]` in every enabled lane (dropped at 8 to 15), leaves `pending`
behind, and changes nothing else. -/
def LaneResult (i : Instr) (s : State) (reads : List Reg) (dst : LaneIx → Reg) (val : LaneIx → Word)
    (pending : List Reg) : Prop :=
  Completes i s reads fun t =>
    WritesOnly s t (laneEnabled s) dst ∧ Written t (laneEnabled s) dst val ∧ Advances s t pending false

/-- As `LaneResult` with a direct destination; where `sets` holds, `LaneFlags` becomes `flag l` in every enabled
lane, and elsewhere it is unchanged. -/
def FlagResult (i : Instr) (s : State) (reads : List Reg) (vd : Reg) (val : LaneIx → Word) (sets : Prop)
    (flag : LaneIx → Prop) : Prop :=
  Completes i s reads fun t =>
    KeepsRegs s t (fun l r => laneEnabled s l = true ∧ r = vd ∧ vd < 8#4) ∧
    Written t (laneEnabled s) (fun _ => vd) val ∧
    (∀ l, laneEnabled s l = true → sets → ((t.lane l).laneFlag = true ↔ flag l)) ∧
    (∀ l, ¬(laneEnabled s l = true ∧ sets) → (t.lane l).laneFlag = (s.lane l).laneFlag) ∧
    KeepsSwitch s t ∧ KeepsStack s t ∧ KeepsPrng s t ∧ KeepsStorage s t ∧ Advances s t [] false

/-- The state of predication is all an instruction may change: registers, PRNG and storage stay. -/
def KeepsData (s t : State) : Prop :=
  KeepsRegs s t (fun _ _ => False) ∧ KeepsPrng s t ∧ KeepsStorage s t ∧ Advances s t [] false

/-- The form is refused, whatever the state. -/
def Refuses (i : Instr) (e : FormError) : Prop := ∀ s, exec i s = .refused (.inadmissible e)

/-! ## Who owns which state -/

/-- The instructions that act in a lane that `LaneEnabled` rules out (`10_state.md` R24); SFPCONFIG does not run
then. -/
def actsWhenDisabled : Instr → Prop
  | .sfpmov _ _ mod1 => mod1 = 2#4
  | .sfppushc .. | .sfppopc .. | .sfpcompc .. => True
  | .sfpgt _ _ mod1 | .sfple _ _ mod1 => mod1.getLsbD 1 = true
  | _ => False

/-- The writers of `LaneFlags` (`10_state.md` R20). -/
def writesFlags : Instr → Prop
  | .sfpsetcc .. | .sfpexexp .. | .sfpiadd .. | .sfplz .. | .sfpgt .. | .sfple .. => True
  | .sfpencc .. | .sfppushc .. | .sfppopc .. | .sfpcompc .. => True
  | _ => False

/-- The writers of `UseLaneFlagsForLaneEnable` (R21). -/
def writesSwitch : Instr → Prop
  | .sfpencc .. => True
  | .sfppopc _ mod1 => mod1 = 0#4 ∨ mod1 = 14#4 ∨ mod1 = 15#4
  | _ => False

/-- The writers of `FlagStack` (R22). -/
def writesStack : Instr → Prop
  | .sfppushc .. => True
  | .sfppopc _ mod1 => mod1 = 0#4
  | .sfpgt _ _ mod1 | .sfple _ _ mod1 => mod1.getLsbD 1 = true
  | _ => False

/-- The writers of `PRNG_State` (R27; `44_compare_convert.md` R176, R178; `45_move_config.md` R201). -/
def writesPrng : Instr → Prop
  | .sfpmov vc _ mod1 => mod1.getLsbD 3 = true ∧ vc = 9#4
  | .sfpcast _ _ mod1 => mod1 = 1#4
  | .sfpstochrnd roundingMode .. => roundingMode = 1#2
  | _ => False

/-- SFPCONFIG, the writer of `LReg[11..14]`, `LaneConfig` and `LoadMacroConfig` (R13, R25, R26). -/
def isConfig : Instr → Prop
  | .sfpconfig .. => True
  | _ => False

/-- SFPSTORE, the writer of Dest (`20_memory.md` R45). -/
def isStore : Instr → Prop
  | .sfpstore .. => True
  | _ => False

/-- SFPLOAD and SFPSTORE, after which `ADDR_MOD_EFFECT` moves `RWCs[Thread]` (`20_memory.md` R58). -/
def isAccess : Instr → Prop
  | .sfpload .. | .sfpstore .. => True
  | _ => False

/-- The registers `pending` names after an instruction (`70_reset_and_hazards.md` R263). -/
def leavesPending : Instr → Reg → Prop
  | .sfpmad _ _ _ vd mod1, r | .sfpadd _ _ _ vd mod1, r | .sfpmul _ _ _ vd mod1, r | .sfpmul24 _ _ _ vd mod1, r
  | .sfpaddi _ vd mod1, r | .sfpmuli _ vd mod1, r | .sfplutfp32 vd mod1, r => mod1.getLsbD 3 = true ∨ r = vd
  | .sfpswap vc vd _, r => r = vc ∨ r = vd
  | .sfpshft2 _ _ vd mod1, r => mod1 = 2#4 ∧ r < 4#4 ∨ (mod1 = 3#4 ∨ mod1 = 4#4) ∧ r = vd
  | .sfpstochrnd _ _ _ _ vd _ _, r => r = vd
  | _, _ => False

/-- The undetected reads of an instruction (`70_reset_and_hazards.md` R266). -/
def undetectedRead : Instr → Reg → Prop
  | .sfpand vb _ _ mod1, r | .sfpor vb _ _ mod1, r => mod1 = 1#4 ∧ r = vb
  | .sfpiadd _ _ vd mod1, r => mod1.getLsbD 0 = false ∧ r = vd
  | .sfpshft _ _ vd mod1, r => ¬(mod1.getLsbD 0 = true ∧ mod1.getLsbD 2 = true) ∧ r = vd
  | .sfpconfig _ vd mod1, r => ¬(mod1.getLsbD 0 = true ∧ 4#4 ≤ vd) ∧ r = 0#4
  | .sfpswap vc vd mod1, r => mod1 ≠ 0#4 ∧ (r = vc ∨ r = vd)
  | .sfpshft2 x vc _ mod1, r =>
    mod1 = 2#4 ∧ (r = vc ∨ r = 1#4 ∨ r = 2#4 ∨ r = 3#4) ∨ (mod1 = 3#4 ∨ mod1 = 4#4) ∧ r = vc ∨
      (mod1 = 5#4 ∨ mod1 = 6#4) ∧ r = x.extractLsb' 0 4
  | _, _ => False

/-- The refusals of R243 marked "(state)"; SFPSTORE's VD 12 to 15 are refused by the form. -/
def StateRefused : Instr → State → Prop
  | .sfpstore vd .., s => 8#4 ≤ vd ∧ ∃ l : LaneIx, disableBackdoorLoad (s.lane l).laneConfig = false
  | .sfpswap .., s => ∃ l : LaneIx, enableDestIndex (s.lane l).laneConfig = true
  | .sfpconfig .., s => ∃ l : LaneIx, laneEnabled s l = false
  | .sfppopc _ mod1, s => 1#4 ≤ mod1 ∧ mod1 ≤ 12#4 ∧ ∃ (l : LaneIx) (top : FlagEntry) (rest : List FlagEntry),
      (s.lane l).flagStack = top :: rest ∧ top.useLaneFlags ≠ (s.lane l).useLaneFlags
  | _, _ => False

/-- The instructions that demand an SFPNOP after them (`70_reset_and_hazards.md` R268, R269); `t` is the state they
leave. -/
def demandsNop : Instr → State → State → Prop
  | .sfpshft2 _ _ _ mod1, _, _ => mod1 = 2#4 ∨ mod1 = 3#4 ∨ mod1 = 4#4
  | .sfpconfig _ vd _, s, t => vd = 15#4 ∧ ∃ l : LaneIx, (t.lane l).laneConfig ≠ (s.lane l).laneConfig
  | _, _, _ => False

/-- The instructions whose result in a lane depends on another lane (`10_state.md` R17). -/
def readsOtherLanes : Instr → Prop
  | .sfpshft2 _ _ _ mod1 => mod1 = 1#4 ∨ mod1 = 2#4 ∨ mod1 = 3#4 ∨ mod1 = 4#4
  | .sfpconfig .. => True
  | _ => False

/-! ## SFPLOAD and SFPSTORE -/

/-- The Tensix inputs after an access: `ADDR_MOD_EFFECT` on `RWCs[Thread]` (`20_memory.md` R58), whether or not the
inputs listed the thread (log entry 12); the counters of the other threads and the rest of the inputs are unchanged. -/
def MovesRwc (s t : State) (addrMod : BitVec 3) : Prop :=
  t.rwc = Config.addrModEffect addrMod s.rwc ∧
    (∀ k, k ≠ s.thread → t.tensix.rwcs.getD k ⟨0, 0⟩ = s.tensix.rwcs.getD k ⟨0, 0⟩) ∧
    t.tensix = { s.tensix with rwcs := t.tensix.rwcs } ∧ t.thread = s.thread

/-- What an access leaves alone in the lanes and the stream; it moves `RWCs[Thread]` and advances. -/
def AccessFrame (s t : State) (addrMod : BitVec 3) : Prop :=
  KeepsFlags s t ∧ KeepsSwitch s t ∧ KeepsStack s t ∧ KeepsPrng s t ∧ KeepsLaneConfig s t ∧ KeepsMacros s t ∧
    KeepsR16 s t ∧ t.program = s.program ∧ t.overlay = s.overlay ∧ MovesRwc s t addrMod ∧ Advances s t [] false

/-- The row and column that lane `l` of SFPLOAD reaches (`20_memory.md` R42, R44). -/
def loadKey (s : State) (imm10 : BitVec 10) (l : LaneIx) : Nat :=
  cellKey (destRow (destAddr s imm10) l) (destCol (destAddr s imm10) s.tensix.destRdColExchange l)

/-- The cell that lane `l` of SFPSTORE reaches, `DEST_RD_COL_EXCHANGE` not applied. -/
def storeKey (s : State) (imm10 : BitVec 10) (l : LaneIx) : Nat :=
  cellKey (destRow (destAddr s imm10) l) (destCol (destAddr s imm10) false l)

/-- The cells that hold bits 31:16 and bits 15:0 of the 32-bit cell that lane `l` of SFPLOAD reaches, by
`DST32_OVERLAY` (R41). -/
def loadHalves (s : State) (imm10 : BitVec 10) (l : LaneIx) : Nat × Nat :=
  s.overlay.halfKeys (destRow (destAddr s imm10) l) (destCol (destAddr s imm10) s.tensix.destRdColExchange l)

/-- The cells that hold bits 31:16 and bits 15:0 of the 32-bit cell that lane `l` of SFPSTORE reaches. -/
def storeHalves (s : State) (imm10 : BitVec 10) (l : LaneIx) : Nat × Nat :=
  s.overlay.halfKeys (destRow (destAddr s imm10) l) (destCol (destAddr s imm10) false l)

/-- What SFPLOAD makes of a 16-bit cell (`40_load_store.md` R93); the exponent edges of mode 1 are left open. -/
def LoadedFrom (mode : Mode) (c : Half) (old v : Word) : Prop :=
  match mode.toNat with
  | 1 => 1#5 ≤ c.extractLsb' 0 5 → c.extractLsb' 0 5 ≤ 30#5 →
      v = c.extractLsb' 15 1 ++ ((c.extractLsb' 0 5).zeroExtend 8 + 112#8) ++ c.extractLsb' 5 10 ++ 0#13
  | 2 => v = c.extractLsb' 15 1 ++ c.extractLsb' 0 8 ++ c.extractLsb' 8 7 ++ 0#16
  | 5 | 13 => v.extractLsb' 8 23 = 0#23
  | 6 | 9 => v = 0#16 ++ c
  | 7 => v = c ++ 0#16
  | 8 => v = c.extractLsb' 15 1 ++ 0#16 ++ c.extractLsb' 0 15
  | 14 => v = old.extractLsb' 16 16 ++ c
  | 15 => v = c ++ old.extractLsb' 0 16
  | _ => False

/-- A word with a zero of its sign in place of a denormal (`40_load_store.md` R97 `FlushD`; R110 `Z`). -/
def flushed (w : Word) : Word := if w.extractLsb' 23 8 = 0#8 then w.extractLsb' 31 1 ++ 0#31 else w

/-- What SFPSTORE puts into a 16-bit cell (R97); the free cells are left open. -/
def StoredAs (mode : Mode) (w : Word) (c : Half) : Prop :=
  match mode.toNat with
  | 1 => 113#8 ≤ w.extractLsb' 23 8 → w.extractLsb' 23 8 ≤ 142#8 → w.extractLsb' 0 13 = 0#13 →
      c = w.extractLsb' 31 1 ++ w.extractLsb' 13 10 ++ (w.extractLsb' 23 8 - 112#8).extractLsb' 0 5
  | 2 => c = (flushed w).extractLsb' 31 1 ++ (flushed w).extractLsb' 16 7 ++ (flushed w).extractLsb' 23 8
  | 5 | 13 => True
  | 6 | 14 => c = w.extractLsb' 0 16
  | 8 => w.extractLsb' 15 16 = 0#16 → c = w.extractLsb' 31 1 ++ w.extractLsb' 0 15
  | 15 => c = w.extractLsb' 16 16
  | _ => False

/-- What SFPSTORE puts into a 32-bit cell (R97); the low half of mode 7 is left open. -/
def StoredAs32 (mode : Mode) (w d : Word) : Prop :=
  match mode.toNat with
  | 3 => d = (flushed w).extractLsb' 31 1 ++ (flushed w).extractLsb' 16 7 ++ (flushed w).extractLsb' 23 8 ++
      (flushed w).extractLsb' 0 16
  | 4 | 12 => d = w.extractLsb' 31 1 ++ w.extractLsb' 16 7 ++ w.extractLsb' 23 8 ++ w.extractLsb' 0 16
  | 7 => d.extractLsb' 16 16 = w.extractLsb' 16 16
  | 9 => d = w.extractLsb' 0 16 ++ w.extractLsb' 16 16
  | _ => False

/-- SFPSTORE accepts this VD (R96). -/
def StoreSource (s : State) (vd : Reg) : Prop :=
  vd < 8#4 ∨ vd < 12#4 ∧ ∀ l, disableBackdoorLoad (s.lane l).laneConfig = true

/-- What a load in mode `mode` gives back of a stored word `w` (`20_memory.md` R52); `old` is the register loaded.
Modes 5 and 13 give back some magnitude below 256 (log entry 24). Modes 7 and 9 store a 32-bit cell and load a 16-bit
cell, here the one that holds its bits 31:16. Mode 1 outside the FP16 numbers and mode 8 above 32767 are left open. -/
def RoundTrip (mode : Mode) (w old v : Word) : Prop :=
  match mode.toNat with
  | 1 => 113#8 ≤ w.extractLsb' 23 8 → w.extractLsb' 23 8 ≤ 142#8 → w.extractLsb' 0 13 = 0#13 → v = w
  | 2 => v = (flushed w).extractLsb' 16 16 ++ 0#16
  | 3 => v = flushed w
  | 4 | 12 => v = w
  | 5 | 13 => v.extractLsb' 8 23 = 0#23
  | 6 | 9 => v = 0#16 ++ w.extractLsb' 0 16
  | 7 => v = w.extractLsb' 16 16 ++ 0#16
  | 8 => w.extractLsb' 15 16 = 0#16 → v = w
  | 14 => v = old.extractLsb' 16 16 ++ w.extractLsb' 0 16
  | 15 => v = w.extractLsb' 16 16 ++ old.extractLsb' 0 16
  | _ => False

/-- `Unshuffle32` (`20_memory.md` R47). -/
def unshuffledWord (d : Word) : Word :=
  d.extractLsb' 31 1 ++ d.extractLsb' 16 8 ++ d.extractLsb' 24 7 ++ d.extractLsb' 0 16

/-! ## The MAD instructions -/

/-- A word with its sign flipped where `b` holds (`41_mad.md` R111). -/
def signFlip (b : Bool) (w : Word) : Word := if b then BitVec.cons (!w.getLsbD 31) (w.extractLsb' 0 31) else w

/-- The register a MAD operand names: `LReg[7][l] & 15` where `b` holds (R111). -/
def indirectReg (s : State) (b : Bool) (r : Reg) (l : LaneIx) : Reg :=
  if b then (s.lreg 7 l).extractLsb' 0 4 else r

/-- `FMA(±a, b, ±c)` as R111 says. -/
def madResult (s : State) (va vb vc : Reg) (mod1 : Mode) (l : LaneIx) : Word :=
  fma (signFlip (mod1.getLsbD 0) (s.lreg (indirectReg s (mod1.getLsbD 2) va l) l)) (s.lreg vb l)
    (signFlip (mod1.getLsbD 1) (s.lreg vc l))

/-- The registers a producer with destination `vd` leaves pending (`70_reset_and_hazards.md` R263). -/
def pendingAfter (all : Bool) (vd : Reg) : List Reg :=
  if all then [0#4, 1#4, 2#4, 3#4, 4#4, 5#4, 6#4, 7#4] else if vd < 8#4 then [vd] else []

/-- The breakpoints of a table of SFPLUTFP32 (R118), by `Mod1 & 0xB`. -/
def lutBreaks (table : Mode) : List Word :=
  if table = 2#4 then [0x3F000000#32, 0x3F800000#32, 0x3FC00000#32, 0x40000000#32, 0x40400000#32]
  else if table = 3#4 ∨ table = 11#4 then [0x3F000000#32, 0x3F800000#32, 0x3FC00000#32, 0x40000000#32, 0x40800000#32]
  else [0x3F800000#32, 0x40000000#32]

/-- The number of the piece: how many breakpoints `b` has reached (R118). -/
def lutPiece (table : Mode) (b : Word) : Nat := (lutBreaks table).countP fun t => t ≤ b

/-- `Lut16ToFp32` (R117). -/
def lut16 (h : Half) : Word :=
  if h.extractLsb' 10 5 = 31#5 then h.extractLsb' 15 1 ++ 0#31
  else h.extractLsb' 15 1 ++ ((h.extractLsb' 10 5).zeroExtend 8 + 112#8) ++ h.extractLsb' 0 10 ++ 0#13

/-- Half 0 is bits 15:0, half 1 is bits 31:16. -/
def halfOf (upper : Bool) (w : Word) : Half := if upper then w.extractLsb' 16 16 else w.extractLsb' 0 16

/-- Slope and intercept of piece `j` (R118). `slope i` and `intercept i` say which half of the register that two
pieces of a 6-entry table share holds the LOWER one (`LUT6_PACKING`). -/
def lutPair (slope intercept : Nat → Bool) (s : State) (table : Mode) (j : Nat) (l : LaneIx) : Word × Word :=
  if table = 0#4 ∨ table = 8#4 then (s.lreg (BitVec.ofNat 4 j) l, s.lreg (BitVec.ofNat 4 (4 + j)) l)
  else if table = 10#4 then
    (lut16 (halfOf true (s.lreg (BitVec.ofNat 4 j) l)), lut16 (halfOf false (s.lreg (BitVec.ofNat 4 j) l)))
  else
    (lut16 (halfOf (slope (j / 2) != (j % 2 == 1)) (s.lreg (BitVec.ofNat 4 (j / 2)) l)),
     lut16 (halfOf (intercept (j / 2) != (j % 2 == 1)) (s.lreg (BitVec.ofNat 4 (4 + j / 2)) l)))

/-- What SFPLUTFP32 computes (R116). -/
def lutResult (slope intercept : Nat → Bool) (s : State) (mod1 : Mode) (l : LaneIx) : Word :=
  let x := s.lreg 3 l
  let b := 0#1 ++ x.extractLsb' 0 31
  let ac := lutPair slope intercept s (mod1 &&& 11#4) (lutPiece (mod1 &&& 11#4) b) l
  let d := fma ac.1 b ac.2
  if mod1.getLsbD 2 then x.extractLsb' 31 1 ++ d.extractLsb' 0 31 else d

/-- A NaN: `Exp = 255, Man != 0`. -/
def Nan (w : Word) : Prop := w.extractLsb' 23 8 = 255#8 ∧ w.extractLsb' 0 23 ≠ 0#23

/-- An infinity: `Exp = 255, Man = 0`. -/
def Infinite (w : Word) : Prop := w.extractLsb' 23 8 = 255#8 ∧ w.extractLsb' 0 23 = 0#23

/-- The infinity of a sign. -/
def infinity (negative : Bool) : Word := if negative then 0xFF800000#32 else 0x7F800000#32

/-- The zero of a sign. -/
def signedZero (negative : Bool) : Word := if negative then 0x80000000#32 else 0#32

/-! ## Shifts and swaps -/

/-- A shift by a signed amount, of which the low five bits count (`43_integer_logic.md` R156). -/
def signedShift (arithmetic : Bool) (x : Word) (n : ℤ) : Word :=
  if 0 ≤ n then x <<< (n.toNat % 32)
  else if arithmetic then x.sshiftRight ((-n).toNat % 32) else x >>> ((-n).toNat % 32)

/-- The rows where VD gets the minimum (`44_compare_convert.md` R174 `MinSet`; modes 3 and 4 from their names, log
entry 40). -/
def minRows (mod1 : Mode) : List Nat :=
  match mod1.toNat with
  | 1 => [0, 1, 2, 3]
  | 2 => [0, 1]
  | 3 => [0, 2]
  | 4 => [0, 3]
  | 5 => [0]
  | 6 => [1]
  | 7 => [2]
  | 8 => [3]
  | _ => []

/-! ## Predication -/

/-- `BooleanOp(Mod1, A, B)`, by the truth table of `46_predication.md` R225: the row of Mod1, from A,B = 0,0 on. -/
def opTable (mod1 : Mode) (a b : Bool) : Bool :=
  let row : Bool × Bool × Bool × Bool := match mod1.toNat with
    | 1 => (false, true, false, true)
    | 2 => (true, false, true, false)
    | 3 => (false, false, false, true)
    | 4 => (false, true, true, true)
    | 5 => (false, false, true, false)
    | 6 => (true, false, true, true)
    | 7 => (false, true, false, false)
    | 8 => (true, true, false, true)
    | 9 => (true, false, false, false)
    | 10 => (true, true, true, false)
    | 11 => (false, true, true, false)
    | _ => (true, false, false, true)
  match a, b with
  | false, false => row.1
  | false, true => row.2.1
  | true, false => row.2.2.1
  | true, true => row.2.2.2

/-- What SFPGT and SFPLE do with the result `test` of their comparison (`44_compare_convert.md` R172): VD, flags in
enabled lanes; the top of the stack in every lane. -/
def CompareResult (i : Instr) (s : State) (vd : Reg) (mod1 : Mode) (test : LaneIx → Prop) : Prop :=
  Completes i s [] fun t =>
    KeepsRegs s t (fun l r => mod1.getLsbD 3 = true ∧ laneEnabled s l = true ∧ r = vd ∧ vd < 8#4) ∧
    (∀ l, mod1.getLsbD 3 = true → laneEnabled s l = true → vd < 8#4 →
      (test l → t.lreg vd l = 0xFFFFFFFF#32) ∧ (¬test l → t.lreg vd l = 0#32)) ∧
    (∀ l, laneEnabled s l = true → mod1.getLsbD 0 = true → ((t.lane l).laneFlag = true ↔ test l)) ∧
    (∀ l, ¬(laneEnabled s l = true ∧ mod1.getLsbD 0 = true) → (t.lane l).laneFlag = (s.lane l).laneFlag) ∧
    (mod1.getLsbD 1 = false → KeepsStack s t) ∧
    (mod1.getLsbD 1 = true → ∀ l top rest, (s.lane l).flagStack = top :: rest →
      ∃ b : Bool, (t.lane l).flagStack = ⟨b, top.useLaneFlags⟩ :: rest ∧
        (b = true ↔ if mod1.getLsbD 2 then top.laneFlags = true ∨ test l else top.laneFlags = true ∧ test l)) ∧
    KeepsSwitch s t ∧ KeepsPrng s t ∧ KeepsStorage s t ∧ Advances s t [] false

/-- The next PRNG state (`10_state.md` R27): shifted right by one, bit 31 set where bits 31, 21, 1, 0 hold an even
number of ones. -/
def nextPrng (w : Word) : Word :=
  BitVec.cons (!(w.getLsbD 31 ^^ w.getLsbD 21 ^^ w.getLsbD 1 ^^ w.getLsbD 0)) (w.extractLsb' 1 31)

/-! ## SFPCONFIG and SFPMOV -/

/-- The destination of SFPCONFIG that `vd` selects, in one lane, as a word (`45_move_config.md` R205). -/
def configDest (lane : Lane) (vd : Reg) : Word :=
  match vd.toNat with
  | 0 => lane.lmc.template[0]
  | 1 => lane.lmc.template[1]
  | 2 => lane.lmc.template[2]
  | 3 => lane.lmc.template[3]
  | 4 => lane.lmc.sequence[0]
  | 5 => lane.lmc.sequence[1]
  | 6 => lane.lmc.sequence[2]
  | 7 => lane.lmc.sequence[3]
  | 8 => lane.lmc.misc.zeroExtend 32
  | 11 => lane.prg[0]
  | 12 => lane.prg[1]
  | 13 => lane.prg[2]
  | 14 => lane.prg[3]
  | 15 => lane.laneConfig.zeroExtend 32
  | _ => 0#32

/-- The bits that are kept of it (R205). -/
def configMask (vd : Reg) : Word := if vd = 8#4 then 0xFFF#32 else if vd = 15#4 then 0x3FFFF#32 else 0xFFFFFFFF#32

/-- The value SFPCONFIG combines with the destination (R206). -/
def configSource (imm16 : BitVec 16) (vd : Reg) (mod1 : Mode) (s : State) (l : LaneIx) : Word :=
  if mod1.getLsbD 0 = true ∧ 4#4 ≤ vd then
    if vd = 11#4 then 0xBF800000#32 else if vd = 12#4 then 0x3B000000#32
    else if vd = 13#4 then 0xBF2CC4C7#32 else if vd = 14#4 then 0xBEB08FF9#32 else 0#16 ++ imm16
  else s.lreg 0 (columnLane l)

/-- `Special(VC, l)` of SFPMOV (`45_move_config.md` R201). -/
def specialWord (lane : Lane) (vc : Reg) : Word :=
  if vc = 9#4 then lane.prng else if vc < 9#4 ∨ vc = 15#4 then configDest lane vc else 0#32

/-! ## Numbers -/

/-- The word is a finite FP32 number (`Exp` is not 255). -/
def Finite (w : Word) : Prop := w.extractLsb' 23 8 ≠ 255#8

/-- The real number a finite FP32 word encodes, denormals included (IEEE 754 binary32). -/
def fpValue (w : Word) : ℚ :=
  let e := (w.extractLsb' 23 8).toNat
  let m := (w.extractLsb' 0 23).toNat
  (if w.getLsbD 31 then -1 else 1) * (if e = 0 then (m : ℚ) else 2 ^ 23 + m) * 2 ^ max e 1 / 2 ^ 150

/-- The key of the sign-magnitude order (`44_compare_convert.md` R171). -/
def orderKey (w : Word) : ℤ :=
  if w.getLsbD 31 then -((w.extractLsb' 0 31).toNat : ℤ) - 1 else (w.extractLsb' 0 31).toNat

/-- `r` is the FP32 number nearest to `x`, ties to even (R110 `RNE`, `44_compare_convert.md` R177). -/
def Nearest (x : ℚ) (r : Word) : Prop :=
  Finite r ∧ (∀ w, Finite w → |fpValue r - x| ≤ |fpValue w - x|) ∧
    ∀ w, Finite w → w ≠ r → |fpValue w - x| = |fpValue r - x| → r.getLsbD 0 = false

/-- The signed integer a sign-magnitude word stands for (`10_state.md` R18). -/
def smValue (w : Word) : ℚ := (if w.getLsbD 31 then -1 else 1) * ((w.extractLsb' 0 31).toNat : ℚ)

/-- SFPCAST mode 0 (R177): the nearest FP32 number; the sign of the zero of -0 is left open. -/
def CastNearest (c r : Word) : Prop :=
  (c.extractLsb' 0 31 = 0#31 → r = 0#32 ∨ r = c) ∧ (c.extractLsb' 0 31 ≠ 0#31 → Nearest (smValue c) r)

/-- SFPCAST mode 1 above 2^24 (R176): no FP32 number lies between the exact value and the result. -/
def CastNeighbour (c r : Word) : Prop :=
  Finite r ∧ r.getLsbD 31 = c.getLsbD 31 ∧ ∀ w, Finite w →
    ¬(fpValue r < fpValue w ∧ fpValue w ≤ smValue c) ∧ ¬(smValue c ≤ fpValue w ∧ fpValue w < fpValue r)

/-- SFPSTOCHRND flavor A (R179); in mode 1 either of two results. -/
def RoundsFloat (mod1 : BitVec 3) (mode : BitVec 2) (c r : Word) : Prop :=
  let n := if mod1 = 0#3 then 13 else 16
  if c.extractLsb' 23 8 = 0#8 then r = 0#32
  else if c.extractLsb' 23 8 = 255#8 then r = c.extractLsb' 31 1 ++ 255#8 ++ 0#23
  else
    let down := c.toNat / 2 ^ n * 2 ^ n
    if mode = 0#2 then r.toNat = if 2 ^ (n - 1) ≤ c.toNat % 2 ^ n then down + 2 ^ n else down
    else if mode = 2#2 then r.toNat = down
    else r.toNat = down ∨ r.toNat = down + 2 ^ n

/-- The largest magnitude of an integer result (R180, R181). -/
def roundBound (mod1 : BitVec 3) : Nat :=
  match mod1.toNat with
  | 2 => 255
  | 3 => 127
  | 4 => 255
  | 5 => 127
  | 6 => 65535
  | _ => 32767

/-- The sign of an integer result (R180, R181): none in the unsigned modes 2, 4, 6, else that of the source; the
sign of a zero of a negative source is left open. -/
def RoundSign (mod1 : BitVec 3) (c r : Word) : Prop :=
  if mod1.getLsbD 0 = false then r.getLsbD 31 = false
  else if c.getLsbD 31 = false then r.getLsbD 31 = false
  else r.extractLsb' 0 31 ≠ 0#31 → r.getLsbD 31 = true

/-- SFPSTOCHRND flavor B (R180): the magnitude of the real number rounded and bounded. -/
def RoundsToInt (mod1 : BitVec 3) (mode : BitVec 2) (c r : Word) : Prop :=
  let x := |fpValue c|
  let mag := (r.extractLsb' 0 31).toNat
  RoundSign mod1 c r ∧
  if c.extractLsb' 23 8 = 255#8 then mag = roundBound mod1
  else if mode = 0#2 then mag = min ⌊x + 1 / 2⌋₊ (roundBound mod1)
  else if mode = 2#2 then mag = min ⌊x⌋₊ (roundBound mod1)
  else (mag = min ⌊x⌋₊ (roundBound mod1) ∨ mag = min (⌊x⌋₊ + 1) (roundBound mod1)) ∧ (x < 1 / 2 → mag = 0)

/-- SFPSTOCHRND flavor C (R181): the magnitude shifted right by `sh`, rounded and bounded. -/
def RoundsInt (mod1 : BitVec 3) (mode : BitVec 2) (c : Word) (sh : Nat) (r : Word) : Prop :=
  let m := (c.extractLsb' 0 31).toNat
  let mag := (r.extractLsb' 0 31).toNat
  RoundSign mod1 c r ∧
  if mode = 0#2 then mag = min (if sh = 0 then m else (m + 2 ^ (sh - 1)) / 2 ^ sh) (roundBound mod1)
  else if mode = 2#2 then mag = min (m / 2 ^ sh) (roundBound mod1)
  else mag = min (m / 2 ^ sh) (roundBound mod1) ∨ mag = min (m / 2 ^ sh + 1) (roundBound mod1)

end Sys2Proof.Machine
end

