-- ==== Sys2Proof/Certificates/Slice0/Obligations.lean ====
section
/-! DEFINITION. The statements about the model, for the provers. Each docstring names the rules it comes from; a clause
that rests on a choice of the model names the log entry. -/

section

open Sys2Proof Sys2Proof.Machine

/-! ## Reset, registers, lanes -/

/-- The state after reset (`10_state.md` R32, R33; `70_reset_and_hazards.md` R260), as far as the spec gives it. -/
def Obligations.ResetLeavesFlagsStacksAndConfigClear : Prop :=
  (∀ l : LaneIx, (State.reset.lane l).laneFlag = false ∧ (State.reset.lane l).useLaneFlags = false ∧
    (State.reset.lane l).flagStack = [] ∧ (State.reset.lane l).laneConfig = 0#18) ∧
  (∀ l, laneEnabled State.reset l = true) ∧ State.reset.pos = 0 ∧ State.reset.pending = []

/-- R12: the hardware constants, in every state. -/
def Obligations.HardwareConstantsHoldInEveryState : Prop :=
  ∀ (s : State) (l : LaneIx), s.lreg 8 l = 0x3F566189#32 ∧ s.lreg 9 l = 0#32 ∧ s.lreg 10 l = 0x3F800000#32 ∧
    s.lreg 15 l = BitVec.ofNat 32 (2 * l.val)

/-- R23, R25: lane enable, with the fields of `LaneConfig` at three places that do not overlap (`ROW_MASK`
contiguous: log entry 16). -/
def Obligations.LaneEnableFollowsRowMaskAndFlags : Prop :=
  ∃ rows backdoor index : Nat, rows + 4 ≤ 18 ∧ backdoor < 18 ∧ index < 18 ∧ backdoor ≠ index ∧
    ¬(rows ≤ backdoor ∧ backdoor < rows + 4) ∧ ¬(rows ≤ index ∧ index < rows + 4) ∧
    (∀ cfg : BitVec 18, disableBackdoorLoad cfg = cfg.getLsbD backdoor ∧ enableDestIndex cfg = cfg.getLsbD index) ∧
    ∀ (s : State) (l : LaneIx), laneEnabled s l = true ↔
      (s.lane (columnLane l)).laneConfig.getLsbD (rows + l.val / 8) = false ∧
        ((s.lane l).useLaneFlags = true → (s.lane l).laneFlag = true)

/-! ## Step, decode, encode -/

/-- A step runs the delivered instruction on the state with the inputs delivered with it (`10_state.md` R28, R29),
`Thread` staying as it is (`60_exceptions.md` R251); a stream with a word outside the admitted subset is refused before
it starts (R243, R262), and a word that is no SFPU instruction is refused wherever it stands (`30_encoding.md` R75).
The model's choices: that the stream is refused for its first such word, under that word's reason, and that this check
is made at `pos = 0` only (log entry 3), and that at the end of the stream a step changes nothing (log entry 2). -/
def Obligations.StepRunsTheDeliveredInstruction : Prop :=
  (∀ (s : State) (d : Delivery) (i : Instr), (s.pos = 0 → AdmittedStream s.program) → s.program[s.pos]? = some d →
    decode d.word = .ok i → step s = exec i { s with tensix := d.inputs.getD s.tensix }) ∧
  (∀ s : State, s.pos = 0 → ¬AdmittedStream s.program →
    ∃ (before after : List Delivery) (d : Delivery), s.program = before ++ d :: after ∧ AdmittedStream before ∧
      ((∃ e, decode d.word = .error e ∧ step s = .refused (.undecodable e)) ∨
        ∃ i e, decode d.word = .ok i ∧ formError i = some e ∧ step s = .refused (.inadmissible e))) ∧
  (∀ (s : State) (d : Delivery) (e : DecodeError), s.pos ≠ 0 → s.program[s.pos]? = some d → decode d.word = .error e →
    step s = .refused (.undecodable e)) ∧
  (∀ s : State, s.program.length ≤ s.pos → step s = .next s)

/-- Words written out from the formats and opcode bytes of `30_encoding.md` R74 (PRESUMED, log entry 1), one or more
per family. -/
def Obligations.SampleWordsDecodeToTheirInstructions : Prop :=
  decode 0x8400A910#32 = .ok (.sfpmad 0 10 9 1 0) ∧
  decode 0x70328005#32 = .ok (.sfpload 3 2 4 5) ∧
  decode 0x7178BEEF#32 = .ok (.sfploadi 7 8 0xBEEF) ∧
  decode 0x8207F121#32 = .ok (.sfpsetexp 0x7F 1 2 1) ∧
  decode 0x79FFC12A#32 = .ok (.sfpiadd 0xFFC 1 2 10) ∧
  decode 0x92000129#32 = .ok (.sfpswap 1 2 9) ∧
  decode 0x8E45672D#32 = .ok (.sfpstochrnd 2 5 6 7 2 5 1) ∧
  decode 0x91ABCDF1#32 = .ok (.sfpconfig 0xABCD 15 1) ∧
  decode 0x8A00302A#32 = .ok (.sfpencc 3 2 10) ∧
  decode 0x8F000000#32 = .ok .sfpnop

/-- The decoder reads back every instruction from its word: no bit of an operand is dropped (R71, R74). -/
def Obligations.DecodeOfEncodeIsTheInstruction : Prop := ∀ i : Instr, decode (encode i) = .ok i

/-- A word that decodes is the word of its instruction: no bit of the word is ignored, zero positions included (R74,
R75 b). An opcode byte outside the list of R74 is refused. -/
def Obligations.DecodableWordsAreEncodings : Prop :=
  (∀ (w : BitVec 32) (i : Instr), decode w = .ok i → encode i = w) ∧
  (∀ w : BitVec 32, (∀ i : Instr, w.extractLsb' 24 8 ≠ opcode i) →
    decode w = .error (.notSfpu (w.extractLsb' 24 8)))

/-! ## What every step keeps -/

/-- The invariant holds after reset, with the values that the model chose for it (log entries 5, 7, 10, 11). -/
def Obligations.InvariantHoldsAtReset : Prop := Inv State.reset

/-- Every step keeps the invariant: Dest canonical and inside the array (R40), stacks at most 8 deep and equally deep
(R22), `LaneConfig`, the programmable constants and `LoadMacroConfig` equal down each column (R13, R25, R26), `pending`
among 0 to 7 (R31), the position inside the stream (R262), and `DST32_OVERLAY` is one (log
entry 43). -/
def Obligations.EveryStepKeepsTheInvariant : Prop :=
  ∀ s t : State, Inv s → step s = .next t → Inv t

/-- Each piece of state is changed by its writers alone (R13, R14, R16, R20, R21, R22, R25, R26, R27, R45); `Thread` (R251),
the stream and `DST32_OVERLAY`, a parameter of the launch (log entry 11), by no instruction. -/
def Obligations.StateChangesOnlyByItsWriters : Prop :=
  ∀ (i : Instr) (s t : State), exec i s = .next t →
    t.program = s.program ∧ t.thread = s.thread ∧ t.overlay = s.overlay ∧ KeepsR16 s t ∧
    (¬isAccess i → t.tensix = s.tensix) ∧ (¬isStore i → t.dest = s.dest) ∧
    (¬isConfig i → KeepsLaneConfig s t ∧ KeepsMacros s t ∧ ∀ (l : LaneIx) (r : Reg), 8#4 ≤ r → t.lreg r l = s.lreg r l) ∧
    (¬writesPrng i → KeepsPrng s t) ∧ (¬writesSwitch i → KeepsSwitch s t) ∧
    (¬writesStack i → KeepsStack s t) ∧ (¬writesFlags i → KeepsFlags s t)

/-- A lane that is not enabled keeps everything it has (R24), but for the instructions that R24 excepts; of these,
SFPGT and SFPLE reach its stack alone, and SFPMOV its general registers alone. -/
def Obligations.DisabledLanesKeepTheirState : Prop :=
  ∀ (i : Instr) (s t : State) (l : LaneIx), exec i s = .next t → laneEnabled s l = false →
    (¬actsWhenDisabled i → t.lane l = s.lane l) ∧
    (∀ vc vd mod1, i = .sfpgt vc vd mod1 ∨ i = .sfple vc vd mod1 →
      t.lane l = { s.lane l with flagStack := (t.lane l).flagStack }) ∧
    (∀ vc vd mod1, i = .sfpmov vc vd mod1 → t.lane l = { s.lane l with gpr := (t.lane l).gpr })

/-- Apart from SFPSHFT2 modes 1 to 4 and SFPCONFIG, what an instruction leaves in a lane does not depend on the other
lanes but through lane enable (R17, R23). -/
def Obligations.LanesDoNotSeeEachOther : Prop :=
  ∀ (i : Instr) (s s' t t' : State) (l : LaneIx), ¬readsOtherLanes i → exec i s = .next t → exec i s' = .next t' →
    s.lane l = s'.lane l →
    (s.lane (columnLane l)).laneConfig = (s'.lane (columnLane l)).laneConfig → s.pos = s'.pos →
    (isAccess i → s.dest = s'.dest ∧ s.tensix = s'.tensix ∧ s.thread = s'.thread ∧ s.overlay = s'.overlay) → t.lane l = t'.lane l

/-! ## Position and hazards -/

/-- The position, the pending set and the demand for an SFPNOP after any instruction (R29, R263, R268, R269). -/
def Obligations.InstructionsAdvanceAndLeavePending : Prop :=
  ∀ (i : Instr) (s t : State), exec i s = .next t →
    t.pos = s.pos + 1 ∧ (∀ r : Reg, r ∈ t.pending ↔ r < 8#4 ∧ leavesPending i r) ∧
      (t.nopRequired = true ↔ demandsNop i s t)

/-- R266, R268, R269: where no refusal comes first (R244), an instruction faults with `HazardViolation` exactly when it
makes an undetected read of a pending register, or when it stands where an SFPNOP must stand and is none (that demand
is carried by `nopRequired`, a field of the model's own: log entry 31). -/
def Obligations.HazardFaultsExactlyOnUndetectedReads : Prop :=
  ∀ (i : Instr) (s : State), i.wellFormed = true → ¬StateRefused i s →
    (exec i s = .fault (.hazardViolation s.pos) ↔
      s.nopRequired = true ∧ i ≠ .sfpnop ∨ ∃ r ∈ s.pending, undetectedRead i r)

/-- The refusals of R243 that depend on the state, each under its own name, and no other refusal of an admitted form
(R174, R206, R223; `40_load_store.md` R96). They come before any fault (R244). -/
def Obligations.StateRefusalsAreExactlyThoseOfTheSpec : Prop :=
  ∀ (i : Instr) (s : State), i.wellFormed = true →
    ((∃ r, exec i s = .refused r) ↔ StateRefused i s) ∧
    (StateRefused i s → exec i s = .refused (match i with
      | .sfpstore .. => .backdoorStore
      | .sfpswap .. => .destIndexSwap
      | .sfpconfig .. => .configUnderPredication
      | _ => .popSwitchMismatch))

/-- The operand forms that R243 refuses by the instruction alone (rows of R75, R90, R96, R97, R99, R114 to R119, R130
to R136, R151 to R157, R170, R174, R176, R178, R183, R200, R202, R205, R207, R221, R222, R224, R228). -/
def Obligations.ReservedFormsAreRefused : Prop :=
  (∀ vd am imm, Refuses (.sfpload vd 10 am imm) .int32AllAddressing ∧ Refuses (.sfpstore vd 10 am imm) .int32AllAddressing ∧
    Refuses (.sfpstore vd 11 am imm) .storeZeroWidth) ∧
  (∀ vd mod0 am imm, mod0 ≠ 10#4 → mod0 ≠ 11#4 → 12#4 ≤ vd → Refuses (.sfpstore vd mod0 am imm) .storeSource) ∧
  (∀ imm vd mod1, mod1.getLsbD 0 = true ∨ mod1.getLsbD 2 = true → Refuses (.sfpaddi imm vd mod1) (.reservedMode "SFPADDI")) ∧
  (∀ imm vd mod1, mod1.getLsbD 0 = true ∨ mod1.getLsbD 2 = true → Refuses (.sfpmuli imm vd mod1) (.reservedMode "SFPMULI")) ∧
  (∀ imm vd mod1, mod1 = 2#4 ∨ mod1 = 10#4 → Refuses (.sfpmuli imm vd mod1) .muliNegate) ∧
  (∀ vd mod1, mod1 &&& 11#4 = 1#4 ∨ mod1 &&& 11#4 = 9#4 → Refuses (.sfplutfp32 vd mod1) (.reservedMode "SFPLUTFP32")) ∧
  (∀ va vb vc vd mod1, mod1.getLsbD 1 = true → Refuses (.sfpmul24 va vb vc vd mod1) (.reservedMode "SFPMUL24")) ∧
  (∀ va vb vc vd mod1, mod1.getLsbD 1 = false → vc ≠ 9#4 → Refuses (.sfpmul24 va vb vc vd mod1) .mul24Addend) ∧
  (∀ x8 x12 x1 vc vd mod1, 2#4 ≤ mod1 → Refuses (.sfpdivp2 x8 vc vd mod1) (.reservedMode "SFPDIVP2") ∧
    Refuses (.sfpexman vc vd mod1) (.reservedMode "SFPEXMAN") ∧ Refuses (.sfpsetsgn x1 vc vd mod1) (.reservedMode "SFPSETSGN") ∧
    Refuses (.sfpsetman x12 vc vd mod1) (.reservedMode "SFPSETMAN") ∧ Refuses (.sfpabs vc vd mod1) (.reservedMode "SFPABS")) ∧
  (∀ x8 vc vd mod1, 3#4 ≤ mod1 → Refuses (.sfpsetexp x8 vc vd mod1) (.reservedMode "SFPSETEXP")) ∧
  (∀ vc vd mod1, mod1.getLsbD 2 = true → Refuses (.sfpexexp vc vd mod1) (.reservedMode "SFPEXEXP")) ∧
  (∀ vb vc vd mod1, 2#4 ≤ mod1 → Refuses (.sfpand vb vc vd mod1) (.reservedMode "SFPAND") ∧
    Refuses (.sfpor vb vc vd mod1) (.reservedMode "SFPOR")) ∧
  (∀ vc vd mod1, mod1 ≠ 0#4 → Refuses (.sfpxor vc vd mod1) (.reservedMode "SFPXOR") ∧
    Refuses (.sfpnot vc vd mod1) (.reservedMode "SFPNOT")) ∧
  (∀ vc vd mod1, mod1.getLsbD 0 = true → Refuses (.sfplz vc vd mod1) (.reservedMode "SFPLZ")) ∧
  (∀ x vc vd mod1, mod1.getLsbD 3 = true → Refuses (.sfpshft x vc vd mod1) (.reservedMode "SFPSHFT")) ∧
  (∀ x vc vd mod1, 7#4 ≤ mod1 → Refuses (.sfpshft2 x vc vd mod1) (.reservedMode "SFPSHFT2")) ∧
  (∀ x vc vd mod1, mod1 < 6#4 → x.extractLsb' 4 8 ≠ 0#8 → Refuses (.sfpshft2 x vc vd mod1) .shft2Operand) ∧
  (∀ x vc vd mod1, 8#4 ≤ vd → Refuses (.sfpsetcc x vc vd mod1) .unusedDestination) ∧
  (∀ vc vd mod1, 10#4 ≤ mod1 → Refuses (.sfpswap vc vd mod1) (.reservedMode "SFPSWAP")) ∧
  (∀ vc vd mod1, 4#4 ≤ mod1 → Refuses (.sfpcast vc vd mod1) (.reservedMode "SFPCAST")) ∧
  (∀ imm5 vb vc vd mod1 u, Refuses (.sfpstochrnd 3 imm5 vb vc vd mod1 u) .roundingMode) ∧
  (∀ mode imm5 vb vc vd mod1 u, mode ≠ 3#2 → mod1 ≠ 4#3 → mod1 ≠ 5#3 → imm5 ≠ 0#5 ∨ u ≠ 0#1 →
    Refuses (.sfpstochrnd mode imm5 vb vc vd mod1 u) .roundOperands) ∧
  (∀ vb vc vd mod1, 3#4 ≤ mod1 → Refuses (.sfparecip vb vc vd mod1) (.reservedMode "SFPARECIP")) ∧
  (∀ vc vd mod1, mod1 ∉ [0#4, 1#4, 2#4, 8#4, 9#4] → Refuses (.sfpmov vc vd mod1) (.reservedMode "SFPMOV")) ∧
  (∀ vd mod0 imm, mod0 ∉ [0#4, 1#4, 2#4, 4#4, 8#4, 10#4] → Refuses (.sfploadi vd mod0 imm) (.reservedMode "SFPLOADI")) ∧
  (∀ vd mod0 imm, mod0 ∈ [0#4, 1#4, 2#4, 4#4, 8#4, 10#4] → 8#4 ≤ vd → Refuses (.sfploadi vd mod0 imm) .loadiDestination) ∧
  (∀ imm vd mod1, vd = 9#4 ∨ vd = 10#4 → Refuses (.sfpconfig imm vd mod1) .configDestination) ∧
  (∀ imm vd mod1, vd ≠ 9#4 → vd ≠ 10#4 → mod1.getLsbD 3 = true → Refuses (.sfpconfig imm vd mod1) .configLaneMask) ∧
  (∀ imm vd mod1, vd ≠ 9#4 → vd ≠ 10#4 → mod1 = 6#4 ∨ mod1 = 7#4 → Refuses (.sfpconfig imm vd mod1) .configXor) ∧
  (∀ imm2 vd mod1, mod1.getLsbD 2 = true → Refuses (.sfpencc imm2 vd mod1) (.reservedMode "SFPENCC")) ∧
  (∀ vd, Refuses (.sfppushc vd 15) .pushPairOrder) ∧
  (∀ vd mod1, mod1 ≠ 0#4 → Refuses (.sfpcompc vd mod1) (.reservedMode "SFPCOMPC")) ∧
  (∀ imm2 vd mod1, 8#4 ≤ vd → (mod1.getLsbD 2 = false → Refuses (.sfpencc imm2 vd mod1) .unusedDestination) ∧
    (mod1 ≠ 15#4 → Refuses (.sfppushc vd mod1) .unusedDestination) ∧ Refuses (.sfppopc vd mod1) .unusedDestination ∧
    Refuses (.sfpcompc vd 0) .unusedDestination)

/-- R210, R211: SFPTRANSP and SFPLOADMACRO are refused, whatever the operands and the state. -/
def Obligations.UndescribedInstructionsAreRefused : Prop :=
  (∀ vc vd mod1, Refuses (.sfptransp vc vd mod1) .transpNotDescribed) ∧
  (∀ vd mod0 am imm, Refuses (.sfploadmacro vd mod0 am imm) .loadMacroNotDescribed)

/-! ## Dest -/

/-- R42, R43, R44: the address, the cell of each lane, the cells an access covers, and that no two lanes share one. -/
def Obligations.LanesMapToDistinctDestCells : Prop :=
  (∀ (s : State) (imm10 : BitVec 10), destAddr s imm10 = (imm10.toNat + s.tensix.mathOffset + s.rwc.dst +
    s.tensix.destRegwBase + ((s.rwc.sp + s.tensix.destSpBase) &&& 3)) % 2 ^ 10) ∧
  (∀ (addr : Nat) (x : Bool) (l : LaneIx), addr < 1024 → destRow addr l = (addr &&& 1020) + l.val / 8 ∧
    destRow addr l < 1024 ∧ destCol addr x l = l.val % 8 * 2 + (if addr &&& 2 ≠ 0 ∨ x = true then 1 else 0)) ∧
  (∀ (addr r c : Nat) (x : Bool), (∃ l : LaneIx, destRow addr l = r ∧ destCol addr x l = c) ↔
    addr / 4 * 4 ≤ r ∧ r < addr / 4 * 4 + 4 ∧ c < 16 ∧ c % 2 = (if addr / 2 % 2 = 1 ∨ x = true then 1 else 0)) ∧
  (∀ (addr : Nat) (x : Bool) (l k : LaneIx), destRow addr l = destRow addr k → destCol addr x l = destCol addr x k →
    l = k)

/-- R47: the shuffles undo each other, and the spec's worked examples. -/
def Obligations.ShufflesAreInverse : Prop :=
  (∀ w : Word, unshuffle32 (shuffle32 w) = w ∧ shuffle32 (unshuffle32 w) = w) ∧
  (∀ h : Half, unshuffle16 (shuffle16 h) = h ∧ shuffle16 (unshuffle16 h) = h) ∧
  shuffle32 0x3F800000#32 = 0x007F0000#32 ∧ shuffle32 0xC0200000#32 = 0xA0800000#32 ∧
  shuffle16 0x3F80#16 = 0x007F#16 ∧ shuffle16 0xC020#16 = 0xA080#16 ∧
  ∀ w : Word, shuffle32 w = w.extractLsb' 31 1 ++ w.extractLsb' 16 7 ++ w.extractLsb' 23 8 ++ w.extractLsb' 0 16 ∧
    shuffle16 (w.extractLsb' 16 16) = w.extractLsb' 31 1 ++ w.extractLsb' 16 7 ++ w.extractLsb' 23 8

/-- R92, R93: SFPLOAD in the modes that read a 16-bit cell. `MOD0_FMT_SRCB` resolves by `ALU_FORMAT_SPEC_REG` (R90). -/
def Obligations.LoadReadsSixteenBitCells : Prop :=
  ∀ (vd : Reg) (mod0 : Mode) (am : BitVec 3) (imm10 : BitVec 10) (s : State) (cell : LaneIx → Half),
    vd < 8#4 → mod0 ≠ 10#4 → resolveMode s mod0 ∉ [3#4, 4#4, 11#4, 12#4] →
    (∀ l, laneEnabled s l = true → s.dest.read (loadKey s imm10 l) = some (cell l)) →
    Completes (.sfpload vd mod0 am imm10) s [] fun t =>
      KeepsRegs s t (fun l r => laneEnabled s l = true ∧ r = vd) ∧
      (∀ l, laneEnabled s l = true → LoadedFrom (resolveMode s mod0) (cell l) (s.lreg vd l) (t.lreg vd l)) ∧
      t.dest = s.dest ∧ AccessFrame s t am

/-- R92, R93: SFPLOAD in the modes 3, 4, 12, which read a 32-bit cell, made of the two 16-bit cells that
`DST32_OVERLAY` gives (R41), whatever it is. -/
def Obligations.LoadReadsThirtyTwoBitCells : Prop :=
  ∀ (vd : Reg) (mod0 : Mode) (am : BitVec 3) (imm10 : BitVec 10) (s : State) (cell : LaneIx → Word),
    vd < 8#4 → resolveMode s mod0 ∈ [3#4, 4#4, 12#4] →
    (∀ l, laneEnabled s l = true → destRow (destAddr s imm10) l < 512 ∧
      s.dest.read (loadHalves s imm10 l).1 = some ((cell l).extractLsb' 16 16) ∧
      s.dest.read (loadHalves s imm10 l).2 = some ((cell l).extractLsb' 0 16)) →
    Completes (.sfpload vd mod0 am imm10) s [] fun t =>
      KeepsRegs s t (fun l r => laneEnabled s l = true ∧ r = vd) ∧
      (∀ l, laneEnabled s l = true → t.lreg vd l = unshuffledWord (cell l)) ∧
      t.dest = s.dest ∧ AccessFrame s t am

/-- SFPLOAD at its edges: VD 8 to 15 "does nothing at all" (R92), mode 11 writes zero and reads no cell (R93), and
`Mod0 = 0` is the mode that `ALU_FORMAT_SPEC_REG` names (R90; log entry 14). -/
def Obligations.LoadEdgeForms : Prop :=
  (∀ (vd : Reg) (mod0 : Mode) (am : BitVec 3) (imm10 : BitVec 10) (s : State), 8#4 ≤ vd → mod0 ≠ 10#4 →
    MayIssue s [] → exec (.sfpload vd mod0 am imm10) s =
      .next { s with pos := s.pos + 1, pending := [], nopRequired := false }) ∧
  (∀ (vd : Reg) (am : BitVec 3) (imm10 : BitVec 10) (s : State), vd < 8#4 →
    Completes (.sfpload vd 11 am imm10) s [] fun t =>
      KeepsRegs s t (fun l r => laneEnabled s l = true ∧ r = vd) ∧
      (∀ l, laneEnabled s l = true → t.lreg vd l = 0#32) ∧ t.dest = s.dest ∧ AccessFrame s t am) ∧
  (∀ (s : State) (mod0 : Mode), (mod0 ≠ 0#4 → resolveMode s mod0 = mod0) ∧
    resolveMode s 0 = match s.tensix.aluFormatSpec with
      | .fp16 => 1#4
      | .bf16 => 2#4
      | .fp32 => 3#4)

/-- The faults of SFPLOAD and SFPSTORE name the lowest lane concerned (R91, R94 (3), R244): a cell that nothing has
defined (log entry 10), and a row of 512 or more in the 32-bit view. -/
def Obligations.AccessFaultsNameTheLowestLane : Prop :=
  (∀ (vd : Reg) (mod0 : Mode) (am : BitVec 3) (imm10 : BitVec 10) (s : State) (l : LaneIx), vd < 8#4 → mod0 ≠ 10#4 →
    resolveMode s mod0 ∉ [3#4, 4#4, 11#4, 12#4] → MayIssue s [] → laneEnabled s l = true →
    s.dest.read (loadKey s imm10 l) = none →
    (∀ k, k < l → laneEnabled s k = true → s.dest.read (loadKey s imm10 k) ≠ none) →
    exec (.sfpload vd mod0 am imm10) s = .fault (.unwrittenRead s.pos l.val)) ∧
  (∀ (vd : Reg) (mod0 : Mode) (am : BitVec 3) (imm10 : BitVec 10) (s : State) (l : LaneIx), vd < 8#4 →
    resolveMode s mod0 ∈ [3#4, 4#4, 12#4] → MayIssue s [] → laneEnabled s l = true → destAddr s imm10 < 512 →
    (s.dest.read (loadHalves s imm10 l).1 = none ∨ s.dest.read (loadHalves s imm10 l).2 = none) →
    (∀ k, k < l → laneEnabled s k = true → s.dest.read (loadHalves s imm10 k).1 ≠ none ∧
      s.dest.read (loadHalves s imm10 k).2 ≠ none) →
    exec (.sfpload vd mod0 am imm10) s = .fault (.unwrittenRead s.pos l.val)) ∧
  (∀ (vd : Reg) (mod0 : Mode) (am : BitVec 3) (imm10 : BitVec 10) (s : State) (l : LaneIx), MayIssue s [] →
    512 ≤ destAddr s imm10 → laneEnabled s l = true → (∀ k, k < l → laneEnabled s k = false) →
    (vd < 8#4 → resolveMode s mod0 ∈ [3#4, 4#4, 12#4] →
      exec (.sfpload vd mod0 am imm10) s = .fault (.destRange s.pos l.val)) ∧
    (StoreSource s vd → resolveMode s mod0 ∈ [3#4, 4#4, 7#4, 9#4, 12#4] →
      exec (.sfpstore vd mod0 am imm10) s = .fault (.destRange s.pos l.val)))

/-- R95, R97: SFPSTORE in the modes that write a 16-bit cell; no register and no other cell changes. That the column
does not follow `DEST_RD_COL_EXCHANGE` is the reading of log entry 15. -/
def Obligations.StoreWritesSixteenBitCells : Prop :=
  ∀ (vd : Reg) (mod0 : Mode) (am : BitVec 3) (imm10 : BitVec 10) (s : State), StoreSource s vd →
    resolveMode s mod0 ∈ [1#4, 2#4, 5#4, 6#4, 8#4, 13#4, 14#4, 15#4] →
    Completes (.sfpstore vd mod0 am imm10) s [] fun t =>
      (∀ l, laneEnabled s l = true → ∃ c, t.dest.read (storeKey s imm10 l) = some c ∧
        StoredAs (resolveMode s mod0) (s.lreg vd l) c) ∧
      KeepsDest s t (fun k => ∃ l, laneEnabled s l = true ∧ k = storeKey s imm10 l) ∧
      KeepsRegs s t (fun _ _ => False) ∧ AccessFrame s t am

/-- R95, R97: SFPSTORE in the modes 3, 4, 7, 9, 12, which write a 32-bit cell as the two 16-bit cells that
`DST32_OVERLAY` gives (R41), whatever it is, as long as no two halves share a cell (log entry 43). That the column does
not follow `DEST_RD_COL_EXCHANGE` is the reading of log entry 15. -/
def Obligations.StoreWritesThirtyTwoBitCells : Prop :=
  ∀ (vd : Reg) (mod0 : Mode) (am : BitVec 3) (imm10 : BitVec 10) (s : State), StoreSource s vd →
    resolveMode s mod0 ∈ [3#4, 4#4, 7#4, 9#4, 12#4] → LawfulOverlay s.overlay →
    (∀ l, laneEnabled s l = true → destRow (destAddr s imm10) l < 512) →
    Completes (.sfpstore vd mod0 am imm10) s [] fun t =>
      (∀ l, laneEnabled s l = true → ∃ d : Word, t.dest.read (storeHalves s imm10 l).1 = some (d.extractLsb' 16 16) ∧
        t.dest.read (storeHalves s imm10 l).2 = some (d.extractLsb' 0 16) ∧
        StoredAs32 (resolveMode s mod0) (s.lreg vd l) d) ∧
      KeepsDest s t (fun k => ∃ l, laneEnabled s l = true ∧
        (k = (storeHalves s imm10 l).1 ∨ k = (storeHalves s imm10 l).2)) ∧
      KeepsRegs s t (fun _ _ => False) ∧ AccessFrame s t am

/-- R52: "a SFPLOAD after a SFPSTORE to the same cell in the same view returns the stored datum after the inverse
conversion". The address inputs are those of the store (`20_memory.md` R58: supplied afresh), and the column exchange
is off. Of modes 5 and 13 only a bound is claimed (log entry 24). Modes 7 and 9 store through the 32-bit view and load
through the 16-bit view; what they give back is claimed where `DST32_OVERLAY` puts bits 31:16 of a 32-bit cell into the
16-bit cell of the same row and column. That no two halves share a cell is log entry 43. -/
def Obligations.LoadAfterStoreReturnsTheDatum : Prop :=
  ∀ (vs vd : Reg) (mod0 : Mode) (am am' : BitVec 3) (imm10 : BitVec 10) (s t : State), vd < 8#4 →
    s.tensix.destRdColExchange = false → LawfulOverlay s.overlay →
    (resolveMode s mod0 = 7#4 ∨ resolveMode s mod0 = 9#4 → ∀ l, laneEnabled s l = true →
      (storeHalves s imm10 l).1 = storeKey s imm10 l) → exec (.sfpstore vs mod0 am imm10) s = .next t →
    ∃ u, exec (.sfpload vd mod0 am' imm10) { t with tensix := s.tensix } = .next u ∧
      ∀ l, laneEnabled s l = true → RoundTrip (resolveMode s mod0) (s.lreg vs l) (s.lreg vd l) (u.lreg vd l)

/-! ## Floating point -/

/-- R110, laws L1 to L4: flushed inputs, NaN, invalid operations, infinities. -/
def Obligations.FmaSpecialOperands : Prop :=
  ∀ a b c : Word, fma a b c = fma (flushed a) (flushed b) (flushed c) ∧
    (Nan a ∨ Nan b ∨ Nan c → fma a b c = 0x7FC00000#32) ∧
    (Infinite a ∧ flushed b &&& 0x7FFFFFFF#32 = 0#32 ∨ flushed a &&& 0x7FFFFFFF#32 = 0#32 ∧ Infinite b →
      fma a b c = 0x7FC00000#32) ∧
    (¬Nan a → ¬Nan b → ¬Nan c → Infinite a ∨ Infinite b →
      flushed a &&& 0x7FFFFFFF#32 ≠ 0#32 → flushed b &&& 0x7FFFFFFF#32 ≠ 0#32 →
      (Infinite c ∧ c.getLsbD 31 ≠ (a.getLsbD 31 ^^ b.getLsbD 31) → fma a b c = 0x7FC00000#32) ∧
      (¬(Infinite c ∧ c.getLsbD 31 ≠ (a.getLsbD 31 ^^ b.getLsbD 31)) →
        fma a b c = infinity (a.getLsbD 31 ^^ b.getLsbD 31))) ∧
    (Finite a → Finite b → Infinite c → fma a b c = c)

/-- R110, law L5: where the real product of the flushed operands is an FP32 normal number or zero, the result is the
sum rounded to nearest even, with overflow to infinity, a signed zero below 2^-126 (log entry 17), and the sign rule of
a zero sum. -/
def Obligations.FmaRoundsExactProducts : Prop :=
  ∀ a b c : Word, Finite a → Finite b → Finite c →
    let p := fpValue (flushed a) * fpValue (flushed b)
    let x := p + fpValue (flushed c)
    let sp := a.getLsbD 31 ^^ b.getLsbD 31
    (p = 0 ∨ ∃ w : Word, Finite w ∧ w.extractLsb' 23 8 ≠ 0#8 ∧ fpValue w = p) →
      (x = 0 → fma a b c = signedZero (decide (p = 0) && sp && c.getLsbD 31)) ∧
      (x ≠ 0 → |x| < 1 / 2 ^ 126 → fma a b c = signedZero (decide (x < 0))) ∧
      (1 / 2 ^ 126 ≤ |x| → |x| < 2 ^ 128 - 2 ^ 103 → Nearest x (fma a b c)) ∧
      (2 ^ 128 - 2 ^ 103 ≤ |x| → fma a b c = infinity (decide (x < 0)))

/-- R110, law L6 and its preamble: whatever the operands, no denormal comes out, and a NaN is the canonical one. -/
def Obligations.FmaNeverGivesDenormalOrStrayNan : Prop :=
  ∀ a b c : Word, ((fma a b c).extractLsb' 23 8 = 0#8 → (fma a b c).extractLsb' 0 23 = 0#23) ∧
    (Nan (fma a b c) → fma a b c = 0x7FC00000#32)

/-- R111, R112, R113: SFPMAD, SFPADD and SFPMUL compute the same, for all 16 modes. -/
def Obligations.MadAddMulComputeTheSame : Prop :=
  ∀ (va vb vc vd : Reg) (mod1 : Mode) (s : State) (i : Instr),
    i = .sfpmad va vb vc vd mod1 ∨ i = .sfpadd va vb vc vd mod1 ∨ i = .sfpmul va vb vc vd mod1 →
    LaneResult i s [] (indirectReg s (mod1.getLsbD 3) vd) (madResult s va vb vc mod1)
      (pendingAfter (mod1.getLsbD 3) vd)

/-- R114, R115: SFPADDI and SFPMULI, in the admitted modes; the VD field is read directly. -/
def Obligations.ImmediateAddAndMultiply : Prop :=
  (∀ (imm16 : BitVec 16) (vd : Reg) (mod1 : Mode) (s : State), mod1 ∈ [0#4, 2#4, 8#4, 10#4] →
    LaneResult (.sfpaddi imm16 vd mod1) s [] (indirectReg s (mod1.getLsbD 3) vd)
      (fun l => fma (imm16 ++ 0#16) 0x3F800000#32 (signFlip (mod1.getLsbD 1) (s.lreg vd l)))
      (pendingAfter (mod1.getLsbD 3) vd)) ∧
  (∀ (imm16 : BitVec 16) (vd : Reg) (mod1 : Mode) (s : State), mod1 ∈ [0#4, 8#4] →
    LaneResult (.sfpmuli imm16 vd mod1) s [] (indirectReg s (mod1.getLsbD 3) vd)
      (fun l => fma (imm16 ++ 0#16) (s.lreg vd l) 0#32) (pendingAfter (mod1.getLsbD 3) vd))

/-- R116, R117, R118: SFPLUTFP32, for some way of packing the 6-entry tables (`LUT6_PACKING`, log entry 27). -/
def Obligations.LutEvaluatesThePieceOfTheMagnitude : Prop :=
  ∃ slope intercept : Nat → Bool, ∀ (vd : Reg) (mod1 : Mode) (s : State),
    mod1 &&& 11#4 ∈ [0#4, 2#4, 3#4, 8#4, 10#4, 11#4] →
    LaneResult (.sfplutfp32 vd mod1) s [] (indirectReg s (mod1.getLsbD 3) vd) (lutResult slope intercept s mod1)
      (pendingAfter (mod1.getLsbD 3) vd)

/-- R119: SFPMUL24, the low or the high 23 bits of the product of the low 23 bits. -/
def Obligations.MultiplyTwentyThreeBits : Prop :=
  ∀ (va vb vd : Reg) (mod1 : Mode) (s : State), mod1.getLsbD 1 = false →
    LaneResult (.sfpmul24 va vb 9 vd mod1) s [] (indirectReg s (mod1.getLsbD 3) vd)
      (fun l =>
        let a := s.lreg (indirectReg s (mod1.getLsbD 2) va l) l
        let b := s.lreg vb l
        if mod1.getLsbD 0 then BitVec.ofNat 32 ((a.toNat % 2 ^ 23) * (b.toNat % 2 ^ 23) / 2 ^ 23)
        else BitVec.ofNat 32 (a.toNat * b.toNat % 2 ^ 23))
      (pendingAfter (mod1.getLsbD 3) vd)

/-! ## FP32 fields -/

/-- R130, R133: SFPDIVP2 and SFPSETEXP change the exponent field alone. -/
def Obligations.ExponentFieldIsReplacedOrAdded : Prop :=
  (∀ (imm8 : BitVec 8) (vc vd : Reg) (mod1 : Mode) (s : State), mod1 = 0#4 ∨ mod1 = 1#4 →
    LaneResult (.sfpdivp2 imm8 vc vd mod1) s [] (fun _ => vd)
      (fun l =>
        let c := s.lreg vc l
        let e := c.extractLsb' 23 8
        c.extractLsb' 31 1 ++ (if mod1 = 0#4 then imm8 else if e = 255#8 then e else e + imm8) ++ c.extractLsb' 0 23) []) ∧
  (∀ (imm8 : BitVec 8) (vc vd : Reg) (mod1 : Mode) (s : State), mod1 = 0#4 ∨ mod1 = 1#4 ∨ mod1 = 2#4 →
    LaneResult (.sfpsetexp imm8 vc vd mod1) s [] (fun _ => vd)
      (fun l =>
        let c := s.lreg vc l
        let d := s.lreg vd l
        c.extractLsb' 31 1 ++ (if mod1 = 0#4 then d.extractLsb' 0 8 else if mod1 = 1#4 then imm8
          else d.extractLsb' 23 8) ++ c.extractLsb' 0 23) [])

/-- R132, R134, R135: SFPEXMAN, SFPSETSGN, SFPSETMAN. -/
def Obligations.MantissaAndSignFieldsAreMoved : Prop :=
  (∀ (vc vd : Reg) (mod1 : Mode) (s : State), mod1 = 0#4 ∨ mod1 = 1#4 →
    LaneResult (.sfpexman vc vd mod1) s [] (fun _ => vd)
      (fun l => 0#8 ++ (if mod1 = 0#4 then 1#1 else 0#1) ++ (s.lreg vc l).extractLsb' 0 23) []) ∧
  (∀ (imm1 : BitVec 1) (vc vd : Reg) (mod1 : Mode) (s : State), mod1 = 0#4 ∨ mod1 = 1#4 →
    LaneResult (.sfpsetsgn imm1 vc vd mod1) s [] (fun _ => vd)
      (fun l => (if mod1 = 1#4 then imm1 else (s.lreg vd l).extractLsb' 31 1) ++ (s.lreg vc l).extractLsb' 0 31) []) ∧
  (∀ (imm12 : BitVec 12) (vc vd : Reg) (mod1 : Mode) (s : State), mod1 = 0#4 ∨ mod1 = 1#4 →
    LaneResult (.sfpsetman imm12 vc vd mod1) s [] (fun _ => vd)
      (fun l => (s.lreg vc l).extractLsb' 23 9 ++
        (if mod1 = 1#4 then imm12 ++ 0#11 else (s.lreg vd l).extractLsb' 0 23)) [])

/-- R131: SFPEXEXP, the exponent as an integer, and its flag. -/
def Obligations.ExponentIsExtractedAsInteger : Prop :=
  ∀ (vc vd : Reg) (mod1 : Mode) (s : State), mod1.getLsbD 2 = false →
    let r : LaneIx → ℤ := fun l =>
      (((s.lreg vc l).extractLsb' 23 8).toNat : ℤ) - if mod1.getLsbD 0 then 0 else 127
    FlagResult (.sfpexexp vc vd mod1) s [] vd (fun l => BitVec.ofInt 32 (r l))
      (vd < 8#4 ∧ (mod1.getLsbD 1 = true ∨ mod1.getLsbD 3 = true))
      (fun l =>
        let f := if mod1.getLsbD 1 then r l < 0 else (s.lane l).laneFlag = true
        if mod1.getLsbD 3 then ¬f else f)

/-- R136: SFPABS, two's complement or FP32. -/
def Obligations.AbsoluteValueKeepsTheEdgeCases : Prop :=
  ∀ (vc vd : Reg) (mod1 : Mode) (s : State), mod1 = 0#4 ∨ mod1 = 1#4 →
    LaneResult (.sfpabs vc vd mod1) s [] (fun _ => vd)
      (fun l =>
        let c := s.lreg vc l
        if mod1 = 0#4 then BitVec.ofInt 32 |c.toInt|
        else if c.extractLsb' 23 8 = 255#8 ∧ c.extractLsb' 0 23 ≠ 0#23 ∧ c.getLsbD 31 = true then c
        else 0#1 ++ c.extractLsb' 0 31) []

/-! ## Integer, logic, shift -/

/-- R151 to R154: SFPAND, SFPOR, SFPXOR, SFPNOT. A VB that is used is an undetected read (R266). -/
def Obligations.BitwiseLogic : Prop :=
  (∀ (vb vc vd : Reg) (s : State),
    LaneResult (.sfpand vb vc vd 0) s [] (fun _ => vd) (fun l => s.lreg vd l &&& s.lreg vc l) [] ∧
    LaneResult (.sfpand vb vc vd 1) s [vb] (fun _ => vd) (fun l => s.lreg vb l &&& s.lreg vc l) [] ∧
    LaneResult (.sfpor vb vc vd 0) s [] (fun _ => vd) (fun l => s.lreg vd l ||| s.lreg vc l) [] ∧
    LaneResult (.sfpor vb vc vd 1) s [vb] (fun _ => vd) (fun l => s.lreg vb l ||| s.lreg vc l) []) ∧
  (∀ (vc vd : Reg) (s : State),
    LaneResult (.sfpxor vc vd 0) s [] (fun _ => vd) (fun l => s.lreg vd l ^^^ s.lreg vc l) [] ∧
    LaneResult (.sfpnot vc vd 0) s [] (fun _ => vd) (fun l => ~~~(s.lreg vc l)) [])

/-- R150: SFPIADD in all 16 modes, and its flag. -/
def Obligations.IntegerAddAndSubtract : Prop :=
  ∀ (imm12 : BitVec 12) (vc vd : Reg) (mod1 : Mode) (s : State),
    let r : LaneIx → Word := fun l =>
      if mod1.getLsbD 0 then BitVec.ofInt 32 ((s.lreg vc l).toInt + imm12.toInt)
      else if mod1.getLsbD 1 then BitVec.ofInt 32 ((s.lreg vc l).toInt - (s.lreg vd l).toInt)
      else BitVec.ofInt 32 ((s.lreg vc l).toInt + (s.lreg vd l).toInt)
    FlagResult (.sfpiadd imm12 vc vd mod1) s (if mod1.getLsbD 0 then [] else [vd]) vd r
      (vd < 8#4 ∧ ¬(mod1.getLsbD 2 = true ∧ mod1.getLsbD 3 = false))
      (fun l =>
        let f := if mod1.getLsbD 2 then (s.lane l).laneFlag = true else (r l).toInt < 0
        if mod1.getLsbD 3 then ¬f else f)

/-- R155: SFPLZ, and its flag. -/
def Obligations.LeadingZerosAreCounted : Prop :=
  ∀ (vc vd : Reg) (mod1 : Mode) (s : State), mod1.getLsbD 0 = false →
    let c : LaneIx → Word := fun l =>
      if mod1.getLsbD 2 then 0#1 ++ (s.lreg vc l).extractLsb' 0 31 else s.lreg vc l
    FlagResult (.sfplz vc vd mod1) s [] vd (fun l => BitVec.ofNat 32 (32 - (c l).toNat.size))
      (vd < 8#4 ∧ (mod1.getLsbD 1 = true ∨ mod1.getLsbD 3 = true))
      (fun l =>
        let f := if mod1.getLsbD 1 then c l ≠ 0#32 else (s.lane l).laneFlag = true
        if mod1.getLsbD 3 then ¬f else f)

/-- R156: SFPSHFT, by a signed register or immediate amount. -/
def Obligations.ShiftBySignedAmount : Prop :=
  ∀ (imm12 : BitVec 12) (vc vd : Reg) (mod1 : Mode) (s : State), mod1.getLsbD 3 = false →
    LaneResult (.sfpshft imm12 vc vd mod1) s (if mod1.getLsbD 0 && mod1.getLsbD 2 then [] else [vd]) (fun _ => vd)
      (fun l => signedShift (mod1.getLsbD 1)
        (if mod1.getLsbD 0 && mod1.getLsbD 2 then s.lreg vc l else s.lreg vd l)
        (if mod1.getLsbD 0 then imm12.toInt else (s.lreg vc l).toInt)) []

/-- R157: SFPSHFT2 modes 0 to 4, the moves between registers and lanes; direction, fill and predication as R158 reads
them (log entry 33). Modes 2, 3, 4 demand an SFPNOP (R268). -/
def Obligations.CrossLaneShuffles : Prop :=
  ∀ (x : BitVec 12) (vc vd : Reg) (mod1 : Mode) (s : State), mod1 < 5#4 → x.extractLsb' 4 8 = 0#8 →
    let ror : LaneIx → Word := fun l =>
      if l.val % 8 = 0 then s.lreg vc (Fin.ofNat 32 (l.val + 7)) else s.lreg vc (Fin.ofNat 32 (l.val - 1))
    let new3 : LaneIx → Word := fun l =>
      if mod1 = 0#4 then 0#32
      else if mod1 = 1#4 then (if l.val < 24 then s.lreg 0 (Fin.ofNat 32 (l.val + 8)) else 0#32)
      else ror l
    Completes (.sfpshft2 x vc vd mod1) s
      (if mod1 = 2#4 then [vc, 1#4, 2#4, 3#4] else if mod1 = 3#4 ∨ mod1 = 4#4 then [vc] else []) fun t =>
      (mod1 < 3#4 → KeepsRegs s t (fun l r => laneEnabled s l = true ∧ r < 4#4) ∧
        ∀ l, laneEnabled s l = true → t.lreg 0 l = s.lreg 1 l ∧ t.lreg 1 l = s.lreg 2 l ∧ t.lreg 2 l = s.lreg 3 l ∧
          t.lreg 3 l = new3 l) ∧
      (mod1 = 3#4 ∨ mod1 = 4#4 → KeepsRegs s t (fun l r => laneEnabled s l = true ∧ r = vd ∧ vd < 8#4) ∧
        Written t (laneEnabled s) (fun _ => vd) fun l => if mod1 = 4#4 ∧ l.val % 8 = 0 then 0#32 else ror l) ∧
      KeepsFlags s t ∧ KeepsSwitch s t ∧ KeepsStack s t ∧ KeepsPrng s t ∧ KeepsStorage s t ∧
      Advances s t (if mod1 = 2#4 then [0#4, 1#4, 2#4, 3#4] else if mod1 = 3#4 ∨ mod1 = 4#4 then pendingAfter false vd
        else []) (decide (2#4 ≤ mod1))

/-- R157: SFPSHFT2 modes 5 and 6, logical shifts of `LReg[X & 15]`; in mode 6 the same field gives the amount. -/
def Obligations.RegisterAndImmediateShiftTwo : Prop :=
  ∀ (x : BitVec 12) (vc vd : Reg) (s : State),
    (x.extractLsb' 4 8 = 0#8 →
      LaneResult (.sfpshft2 x vc vd 5) s [x.extractLsb' 0 4] (fun _ => vd)
        (fun l => signedShift false (s.lreg (x.extractLsb' 0 4) l) (s.lreg vc l).toInt) []) ∧
    LaneResult (.sfpshft2 x vc vd 6) s [x.extractLsb' 0 4] (fun _ => vd)
      (fun l => signedShift false (s.lreg (x.extractLsb' 0 4) l) x.toInt) []

/-! ## Compare, swap, convert -/

/-- R170: SFPSETCC, all 16 modes. No register is written. -/
def Obligations.SetConditionFlags : Prop :=
  ∀ (imm1 : BitVec 1) (vc vd : Reg) (mod1 : Mode) (s : State), vd < 8#4 →
    Completes (.sfpsetcc imm1 vc vd mod1) s [] fun t =>
      (∀ l, laneEnabled s l = true → ((t.lane l).laneFlag = true ↔
        (s.lane l).useLaneFlags = true ∧ mod1.getLsbD 3 = false ∧
          if mod1.getLsbD 0 then imm1 = 1#1
          else match (mod1.extractLsb' 0 3).toNat with
            | 0 => (s.lreg vc l).toInt < 0
            | 2 => (s.lreg vc l).toInt ≠ 0
            | 4 => 0 ≤ (s.lreg vc l).toInt
            | _ => (s.lreg vc l).toInt = 0)) ∧
      (∀ l, laneEnabled s l = false → (t.lane l).laneFlag = (s.lane l).laneFlag) ∧
      KeepsSwitch s t ∧ KeepsStack s t ∧ KeepsData s t

/-- R171: the sign-magnitude order is total, tells all words apart, lies in 32 signed bits, and orders FP32 numbers,
sign-magnitude integers and non-negative two's complement integers by value, but negative two's complement integers
backwards; the quoted chain from -NaN to +NaN, and the spec's examples. The key is the spec's inference from that chain
("[derived: from the quoted chain]"), and the order of the negative two's complement integers follows from the key. -/
def Obligations.SignMagnitudeOrder : Prop :=
  (∀ x y : Word, smGt x y = true ↔ orderKey y < orderKey x) ∧
  (∀ x y : Word, orderKey x = orderKey y → x = y) ∧
  (∀ x : Word, -2 ^ 31 ≤ orderKey x ∧ orderKey x ≤ 2 ^ 31 - 1) ∧
  (∀ x y : Word, Finite x → Finite y → fpValue y < fpValue x → smGt x y = true) ∧
  (∀ x y : Word, smValue y < smValue x → smGt x y = true) ∧
  (∀ x y : Word, 0 ≤ x.toInt → 0 ≤ y.toInt → (smGt x y = true ↔ y.toInt < x.toInt)) ∧
  (∀ x y : Word, x.toInt < 0 → y.toInt < 0 → (smGt x y = true ↔ x.toInt < y.toInt)) ∧
  (∀ x : Word, Finite x → smGt x (infinity true) = true ∧ smGt (infinity false) x = true) ∧
  (∀ n : Word, Nan n → if n.getLsbD 31 then smGt (infinity true) n = true else smGt n (infinity false) = true) ∧
  smGt (signedZero false) (signedZero true) = true ∧ smGt 0x80000001#32 0xBF800000#32 = true ∧
  smGt 0x7FC00000#32 0x7F800000#32 = true ∧ smGt 0xFF800000#32 0xFFC00000#32 = true

/-- R172, R173: SFPGT and SFPLE in all 16 modes; the stack is changed in every lane, and an empty one faults. SFPLE has
the form of SFPGT (log entry 36). -/
def Obligations.CompareWritesFlagStackAndRegister : Prop :=
  ∀ (vc vd : Reg) (mod1 : Mode) (s : State),
    ((mod1.getLsbD 1 = true → ∀ l : LaneIx, (s.lane l).flagStack ≠ []) →
      CompareResult (.sfpgt vc vd mod1) s vd mod1 (fun l => orderKey (s.lreg vc l) < orderKey (s.lreg vd l)) ∧
      CompareResult (.sfple vc vd mod1) s vd mod1 (fun l => orderKey (s.lreg vd l) ≤ orderKey (s.lreg vc l))) ∧
    (mod1.getLsbD 1 = true → MayIssue s [] → ∀ l : LaneIx, (s.lane l).flagStack = [] →
      (∀ k, k < l → (s.lane k).flagStack ≠ []) →
      exec (.sfpgt vc vd mod1) s = .fault (.flagStackUnderflow s.pos l.val) ∧
      exec (.sfple vc vd mod1) s = .fault (.flagStackUnderflow s.pos l.val))

/-- R174: SFPSWAP, modes 0 to 9, with the rows of each mode (those of modes 3 and 4: log entry 40). -/
def Obligations.SwapOrdersThePairByRow : Prop :=
  ∀ (vc vd : Reg) (mod1 : Mode) (s : State), mod1 ≤ 9#4 →
    (∀ l : LaneIx, enableDestIndex (s.lane l).laneConfig = false) →
    let lo : LaneIx → Word := fun l =>
      if orderKey (s.lreg vc l) ≤ orderKey (s.lreg vd l) then s.lreg vc l else s.lreg vd l
    let hi : LaneIx → Word := fun l =>
      if orderKey (s.lreg vc l) ≤ orderKey (s.lreg vd l) then s.lreg vd l else s.lreg vc l
    Completes (.sfpswap vc vd mod1) s (if mod1 = 0#4 then [] else [vc, vd]) fun t =>
      KeepsRegs s t (fun l r => laneEnabled s l = true ∧ (r = vc ∨ r = vd) ∧ r < 8#4) ∧
      Written t (laneEnabled s) (fun _ => vd) (fun l =>
        if mod1 = 0#4 then s.lreg vc l else if l.val / 8 ∈ minRows mod1 then lo l else hi l) ∧
      (vc ≠ vd → Written t (laneEnabled s) (fun _ => vc) fun l =>
        if mod1 = 0#4 then s.lreg vd l else if l.val / 8 ∈ minRows mod1 then hi l else lo l) ∧
      KeepsFlags s t ∧ KeepsSwitch s t ∧ KeepsStack s t ∧ KeepsPrng s t ∧ KeepsStorage s t ∧
      Advances s t (regSet fun r => r == vc || r == vd) false

/-- R176, R177: SFPCAST. Mode 1 gives one of the two neighbours above 2^24, an FP32 number being its own neighbour (log
entry 20); the sign of the zero of -0 is open (log entry 21); the PRNG moves in enabled lanes alone. -/
def Obligations.CastBetweenNumberFormats : Prop :=
  ∀ (vc vd : Reg) (mod1 : Mode) (s : State), mod1 < 4#4 →
    Completes (.sfpcast vc vd mod1) s [] fun t =>
      KeepsRegs s t (fun l r => laneEnabled s l = true ∧ r = vd ∧ vd < 8#4) ∧
      (∀ l, laneEnabled s l = true → vd < 8#4 →
        (mod1 = 0#4 → CastNearest (s.lreg vc l) (t.lreg vd l)) ∧
        (mod1 = 1#4 → if ((s.lreg vc l).extractLsb' 0 31).toNat ≤ 2 ^ 24 then CastNearest (s.lreg vc l) (t.lreg vd l)
          else CastNeighbour (s.lreg vc l) (t.lreg vd l)) ∧
        (mod1 = 2#4 → t.lreg vd l = BitVec.ofInt 32 |(s.lreg vc l).toInt|) ∧
        (mod1 = 3#4 → t.lreg vd l =
          if (s.lreg vc l).getLsbD 31 then 0x80000000#32 ||| (0#32 - s.lreg vc l) else s.lreg vc l)) ∧
      (mod1 ≠ 1#4 → KeepsPrng s t) ∧ (∀ l, laneEnabled s l = false → (t.lane l).prng = (s.lane l).prng) ∧
      KeepsFlags s t ∧ KeepsSwitch s t ∧ KeepsStack s t ∧ KeepsStorage s t ∧ Advances s t [] false

/-- R178, R179: SFPSTOCHRND, flavor A; in rounding mode 1 either neighbour (log entry 19). -/
def Obligations.RoundToShorterFloat : Prop :=
  ∀ (mode : BitVec 2) (vb vc vd : Reg) (mod1 : BitVec 3) (s : State), mode ≠ 3#2 → mod1 = 0#3 ∨ mod1 = 1#3 →
    Completes (.sfpstochrnd mode 0 vb vc vd mod1 0) s [] fun t =>
      KeepsRegs s t (fun l r => laneEnabled s l = true ∧ r = vd ∧ vd < 8#4) ∧
      (∀ l, laneEnabled s l = true → vd < 8#4 → RoundsFloat mod1 mode (s.lreg vc l) (t.lreg vd l)) ∧
      (mode ≠ 1#2 → KeepsPrng s t) ∧ (∀ l, laneEnabled s l = false → (t.lane l).prng = (s.lane l).prng) ∧
      KeepsFlags s t ∧ KeepsSwitch s t ∧ KeepsStack s t ∧ KeepsStorage s t ∧
      Advances s t (pendingAfter false vd) false

/-- R178, R180, R181: SFPSTOCHRND, flavors B and C; in rounding mode 1 either neighbour (log entry 19), the sign of a
zero open (log entry 22). That a magnitude above the maximum becomes the maximum, and that the low five bits of VB are
the shift amount, is the spec's own reading (log entry 42). -/
def Obligations.RoundToBoundedInteger : Prop :=
  ∀ (mode : BitVec 2) (imm5 : BitVec 5) (vb vc vd : Reg) (mod1 : BitVec 3) (u : BitVec 1) (s : State), mode ≠ 3#2 →
    2#3 ≤ mod1 → (mod1 = 4#3 ∨ mod1 = 5#3 ∨ imm5 = 0#5 ∧ u = 0#1) →
    Completes (.sfpstochrnd mode imm5 vb vc vd mod1 u) s [] fun t =>
      KeepsRegs s t (fun l r => laneEnabled s l = true ∧ r = vd ∧ vd < 8#4) ∧
      (∀ l, laneEnabled s l = true → vd < 8#4 →
        if mod1 = 4#3 ∨ mod1 = 5#3 then
          RoundsInt mod1 mode (s.lreg vc l)
            (if u = 1#1 then imm5.toNat else ((s.lreg vb l).extractLsb' 0 5).toNat) (t.lreg vd l)
        else RoundsToInt mod1 mode (s.lreg vc l) (t.lreg vd l)) ∧
      (mode ≠ 1#2 → KeepsPrng s t) ∧ (∀ l, laneEnabled s l = false → (t.lane l).prng = (s.lane l).prng) ∧
      KeepsFlags s t ∧ KeepsSwitch s t ∧ KeepsStack s t ∧ KeepsStorage s t ∧
      Advances s t (pendingAfter false vd) false

/-- R183, R184: SFPARECIP completes and gives its result, for some reciprocal with the laws A1 and A2 and some
exponential with the law A3 (log entry 18). -/
def Obligations.ReciprocalAndExponential : Prop :=
  ∃ recip expo : Word → Word,
    (∀ x : Word, x.getLsbD 31 = false → 1#8 ≤ x.extractLsb' 23 8 → x.extractLsb' 23 8 ≤ 252#8 →
      Finite (recip x) ∧ 0 < fpValue (recip x) ∧ 9944 / 10000 < fpValue (recip x) * fpValue x ∧
        fpValue (recip x) * fpValue x < 10054 / 10000) ∧
    recip 0x3F800000#32 = 0x3F7F0000#32 ∧
    (∀ x : Word, x.toNat < 0x40000000 → Finite (expo x) ∧ 0 < fpValue (expo x) ∧
      9922 / 10000 * Real.exp (fpValue x) < fpValue (expo x) ∧ fpValue (expo x) < 1016 / 1000 * Real.exp (fpValue x)) ∧
    ∀ (vb vc vd : Reg) (mod1 : Mode) (s : State), mod1 < 3#4 →
      LaneResult (.sfparecip vb vc vd mod1) s [] (fun _ => vd)
        (fun l =>
          let c := s.lreg vc l
          let a := 0#1 ++ c.extractLsb' 0 31
          if mod1 = 0#4 then c.extractLsb' 31 1 ++ (recip a).extractLsb' 0 31
          else if mod1 = 1#4 then (if (s.lreg vb l).toInt < 0 then recip a else c)
          else c.extractLsb' 31 1 ++ (expo a).extractLsb' 0 31) []

/-! ## Move, immediate, configuration -/

/-- R200, R201, R27: SFPMOV; mode 2 writes every lane; special source 9 gives the PRNG state and advances it. -/
def Obligations.MoveCopiesRegistersAndSpecials : Prop :=
  (∀ (vc vd : Reg) (mod1 : Mode) (s : State), mod1 < 3#4 → Completes (.sfpmov vc vd mod1) s [] fun t =>
    WritesOnly s t (fun l => laneEnabled s l || mod1 == 2#4) (fun _ => vd) ∧
    Written t (fun l => laneEnabled s l || mod1 == 2#4) (fun _ => vd)
      (fun l => signFlip (mod1 == 1#4) (s.lreg vc l)) ∧ Advances s t [] false) ∧
  (∀ (vc vd : Reg) (mod1 : Mode) (s : State), mod1 = 8#4 ∨ mod1 = 9#4 → Completes (.sfpmov vc vd mod1) s [] fun t =>
    KeepsRegs s t (fun l r => laneEnabled s l = true ∧ r = vd ∧ vd < 8#4) ∧
    Written t (laneEnabled s) (fun _ => vd) (fun l => signFlip (mod1 == 9#4) (specialWord (s.lane l) vc)) ∧
    (∀ l, (t.lane l).prng = if vc = 9#4 ∧ laneEnabled s l = true then nextPrng (s.lane l).prng else (s.lane l).prng) ∧
    KeepsFlags s t ∧ KeepsSwitch s t ∧ KeepsStack s t ∧ KeepsStorage s t ∧ Advances s t [] false)

/-- R202, R203: SFPLOADI; the FP16 immediate with exponent 0 or 31 is left open (log entry 25). -/
def Obligations.LoadImmediateForms : Prop :=
  ∃ edge : BitVec 16 → Word, ∀ (vd : Reg) (mod0 : Mode) (imm16 : BitVec 16) (s : State), vd < 8#4 →
    mod0 ∈ [0#4, 1#4, 2#4, 4#4, 8#4, 10#4] →
    LaneResult (.sfploadi vd mod0 imm16) s [] (fun _ => vd)
      (fun l =>
        let old := s.lreg vd l
        let e := imm16.extractLsb' 10 5
        if mod0 = 0#4 then imm16 ++ 0#16
        else if mod0 = 1#4 then
          (if e = 0#5 ∨ e = 31#5 then edge imm16
           else imm16.extractLsb' 15 1 ++ (e.zeroExtend 8 + 112#8) ++ imm16.extractLsb' 0 10 ++ 0#13)
        else if mod0 = 2#4 then 0#16 ++ imm16
        else if mod0 = 4#4 then BitVec.ofInt 32 imm16.toInt
        else if mod0 = 8#4 then imm16 ++ old.extractLsb' 0 16
        else old.extractLsb' 16 16 ++ imm16) []

/-- R205, R206, R207: SFPCONFIG writes one destination in all 32 lanes, from the immediate, a fixed constant, or the
first 8 lanes of `LReg[0]`; a changed `LaneConfig` demands an SFPNOP (R269). VD 4 to 7 take the immediate as R206 says
(log entry 35). -/
def Obligations.ConfigWritesItsDestinationInAllLanes : Prop :=
  ∀ (imm16 : BitVec 16) (vd : Reg) (mod1 : Mode) (s : State), vd ≠ 9#4 → vd ≠ 10#4 → mod1 < 6#4 →
    (∀ l, laneEnabled s l = true) →
    Completes (.sfpconfig imm16 vd mod1) s (if mod1.getLsbD 0 = true ∧ 4#4 ≤ vd then [] else [0#4]) fun t =>
      (∀ l : LaneIx, configDest (t.lane l) vd = configMask vd &&&
        (if mod1.getLsbD 1 then configDest (s.lane l) vd ||| configSource imm16 vd mod1 s l
         else if mod1.getLsbD 2 then configDest (s.lane l) vd &&& configSource imm16 vd mod1 s l
         else configSource imm16 vd mod1 s l)) ∧
      (∀ (l : LaneIx) (v : Reg), v ≠ vd → configDest (t.lane l) v = configDest (s.lane l) v) ∧
      KeepsRegs s t (fun _ r => r = vd ∧ 11#4 ≤ vd ∧ vd ≤ 14#4) ∧
      KeepsFlags s t ∧ KeepsSwitch s t ∧ KeepsStack s t ∧ KeepsPrng s t ∧ KeepsR16 s t ∧
      KeepsDest s t (fun _ => False) ∧ KeepsOutside s t ∧ t.pos = s.pos + 1 ∧ t.pending = [] ∧
      (t.nopRequired = true ↔ vd = 15#4 ∧ ∃ l : LaneIx, (t.lane l).laneConfig ≠ (s.lane l).laneConfig)

/-- R209: SFPNOP changes the position and the hazard bookkeeping, and nothing else; it runs in every state. -/
def Obligations.NopOnlyAdvances : Prop :=
  ∀ s : State, exec .sfpnop s = .next { s with pos := s.pos + 1, pending := [], nopRequired := false }

/-! ## Predication -/

/-- R221: SFPENCC, in enabled lanes. -/
def Obligations.EnableConditionCodes : Prop :=
  ∀ (imm2 : BitVec 2) (vd : Reg) (mod1 : Mode) (s : State), vd < 8#4 → mod1.getLsbD 2 = false →
    Completes (.sfpencc imm2 vd mod1) s [] fun t =>
      (∀ l, laneEnabled s l = true →
        (t.lane l).useLaneFlags = (if mod1.getLsbD 1 then imm2.getLsbD 0
          else if mod1.getLsbD 0 then !(s.lane l).useLaneFlags else (s.lane l).useLaneFlags) ∧
        (t.lane l).laneFlag = (if mod1.getLsbD 3 then imm2.getLsbD 1 else true)) ∧
      (∀ l, laneEnabled s l = false → (t.lane l).useLaneFlags = (s.lane l).useLaneFlags ∧
        (t.lane l).laneFlag = (s.lane l).laneFlag) ∧ KeepsStack s t ∧ KeepsData s t

/-- R222, R225: SFPPUSHC, Mod1 0 to 14, in all 32 lanes (log entry 34); a full or an empty stack faults. -/
def Obligations.PushSavesOrMutatesTheTop : Prop :=
  ∀ (vd : Reg) (mod1 : Mode) (s : State), vd < 8#4 → mod1 ≠ 15#4 →
    (mod1 = 0#4 → (∀ l : LaneIx, (s.lane l).flagStack.length < 8) → Completes (.sfppushc vd mod1) s [] fun t =>
      (∀ l : LaneIx, (t.lane l).flagStack = ⟨(s.lane l).laneFlag, (s.lane l).useLaneFlags⟩ :: (s.lane l).flagStack) ∧
      KeepsFlags s t ∧ KeepsSwitch s t ∧ KeepsData s t) ∧
    (mod1 ≠ 0#4 → (∀ l : LaneIx, (s.lane l).flagStack ≠ []) → Completes (.sfppushc vd mod1) s [] fun t =>
      (∀ (l : LaneIx) top rest, (s.lane l).flagStack = top :: rest →
        (t.lane l).flagStack = (if mod1 = 14#4 then ⟨true, true⟩
          else if mod1 = 13#4 then ⟨!(s.lane l).laneFlag, (s.lane l).useLaneFlags⟩
          else ⟨opTable mod1 top.laneFlags (s.lane l).laneFlag, (s.lane l).useLaneFlags⟩) :: rest) ∧
      (∀ l : LaneIx, (t.lane l).laneFlag = if mod1 = 13#4 then !(s.lane l).laneFlag else (s.lane l).laneFlag) ∧
      KeepsSwitch s t ∧ KeepsData s t) ∧
    (∀ l : LaneIx, MayIssue s [] →
      (mod1 = 0#4 → 8 ≤ (s.lane l).flagStack.length → (∀ k, k < l → (s.lane k).flagStack.length < 8) →
        exec (.sfppushc vd mod1) s = .fault (.flagStackOverflow s.pos l.val)) ∧
      (mod1 ≠ 0#4 → (s.lane l).flagStack = [] → (∀ k, k < l → (s.lane k).flagStack ≠ []) →
        exec (.sfppushc vd mod1) s = .fault (.flagStackUnderflow s.pos l.val)))

/-- R223, R225: SFPPOPC, all 16 modes, in all 32 lanes (log entry 34); modes 1 to 12 where the two enable switches
agree; modes 0 to 12 fault on an empty stack. -/
def Obligations.PopRestoresOrMutatesTheFlags : Prop :=
  ∀ (vd : Reg) (mod1 : Mode) (s : State), vd < 8#4 → ¬StateRefused (.sfppopc vd mod1) s →
    ((mod1 < 13#4 → ∀ l : LaneIx, (s.lane l).flagStack ≠ []) → Completes (.sfppopc vd mod1) s [] fun t =>
      (∀ (l : LaneIx) top rest, mod1 = 0#4 → (s.lane l).flagStack = top :: rest →
        (t.lane l).laneFlag = top.laneFlags ∧ (t.lane l).useLaneFlags = top.useLaneFlags ∧
          (t.lane l).flagStack = rest) ∧
      (mod1 ≠ 0#4 → KeepsStack s t) ∧
      (∀ (l : LaneIx) top rest, 1#4 ≤ mod1 → mod1 ≤ 12#4 → (s.lane l).flagStack = top :: rest →
        (t.lane l).laneFlag = opTable mod1 top.laneFlags (s.lane l).laneFlag) ∧
      (1#4 ≤ mod1 → mod1 ≤ 13#4 → KeepsSwitch s t) ∧
      (∀ l : LaneIx, (mod1 = 13#4 → (t.lane l).laneFlag = !(s.lane l).laneFlag) ∧
        (mod1 = 14#4 → (t.lane l).useLaneFlags = true ∧ (t.lane l).laneFlag = true) ∧
        (mod1 = 15#4 → (t.lane l).useLaneFlags = true ∧ (t.lane l).laneFlag = false)) ∧
      KeepsData s t) ∧
    (∀ l : LaneIx, MayIssue s [] → mod1 < 13#4 → (s.lane l).flagStack = [] →
      (∀ k, k < l → (s.lane k).flagStack ≠ []) →
      exec (.sfppopc vd mod1) s = .fault (.flagStackUnderflow s.pos l.val))

/-- R224: SFPCOMPC, in all 32 lanes (log entry 34); an empty stack counts as `{true, true}`. -/
def Obligations.ComplementSelectsTheElseLanes : Prop :=
  ∀ (vd : Reg) (s : State), vd < 8#4 → Completes (.sfpcompc vd 0) s [] fun t =>
    (∀ l : LaneIx, (t.lane l).laneFlag = match (s.lane l).flagStack with
      | [] => (s.lane l).useLaneFlags && !(s.lane l).laneFlag
      | top :: _ => top.useLaneFlags && (s.lane l).useLaneFlags && (top.laneFlags && !(s.lane l).laneFlag)) ∧
    KeepsSwitch s t ∧ KeepsStack s t ∧ KeepsData s t

/-- R226, R227: the if, else, endif pattern, inside any outer scope. The bodies may do anything that leaves the stack,
the switch and `LaneConfig` alone, the if part (its condition included) narrowing the active lanes. Then the else
body runs in exactly the lanes that were active before and did not run to the end of the if body, and afterwards the
state of predication is as before. That the three instructions reach all 32 lanes is log entry 34. -/
def Obligations.IfElsePatternPartitionsTheActiveLanes : Prop :=
  ∀ (vd vd' vd'' : Reg) (s s1 s2 s3 s4 s5 : State), (∀ l : LaneIx, (s.lane l).useLaneFlags = true) →
    exec (.sfppushc vd 0) s = .next s1 →
    KeepsStack s1 s2 → KeepsSwitch s1 s2 → KeepsLaneConfig s1 s2 →
    (∀ l : LaneIx, (s2.lane l).laneFlag = true → (s1.lane l).laneFlag = true) →
    exec (.sfpcompc vd' 0) s2 = .next s3 →
    KeepsStack s3 s4 → KeepsSwitch s3 s4 → KeepsLaneConfig s3 s4 →
    exec (.sfppopc vd'' 0) s4 = .next s5 →
    (∀ l, laneEnabled s2 l = true → laneEnabled s l = true) ∧
    (∀ l, laneEnabled s3 l = true ↔ laneEnabled s l = true ∧ laneEnabled s2 l = false) ∧
    (∀ l, laneEnabled s5 l = laneEnabled s l) ∧ KeepsFlags s s5 ∧ KeepsSwitch s s5 ∧ KeepsStack s s5

end
end

