-- ==== Sys2Proof/Laws/Bits.lean ====
section
/-! SUPPORT. Cutting fields out of concatenated bit vectors: what the encoder joins, the decoder takes apart. Use
them with `rw`; `simp` does not see through the sum of the widths. -/

namespace Sys2Proof

/-- A field that lies wholly in the upper part. -/
theorem extract_append_high {n m : Nat} (a : BitVec n) (b : BitVec m) (k len : Nat) (h : m ≤ k) :
    (a ++ b).extractLsb' k len = a.extractLsb' (k - m) len := by
  apply BitVec.eq_of_getLsbD_eq
  intro i hi
  have : ¬k + i < m := by omega
  simp only [BitVec.getLsbD_extractLsb', BitVec.getLsbD_append, this, if_false, Nat.sub_add_comm h]

/-- A field that lies wholly in the lower part. -/
theorem extract_append_low {n m : Nat} (a : BitVec n) (b : BitVec m) (k len : Nat) (h : k + len ≤ m) :
    (a ++ b).extractLsb' k len = b.extractLsb' k len := by
  apply BitVec.eq_of_getLsbD_eq
  intro i hi
  have : k + i < m := by omega
  simp only [BitVec.getLsbD_extractLsb', BitVec.getLsbD_append, this, if_true]

/-- The whole of a vector. -/
theorem extract_all {n : Nat} (a : BitVec n) : a.extractLsb' 0 n = a := by simp

/-- A concatenation as a number. -/
theorem toNat_append_add {n m : Nat} (a : BitVec n) (b : BitVec m) :
    (a ++ b).toNat = a.toNat * 2 ^ m + b.toNat := by
  rw [BitVec.toNat_append, Nat.shiftLeft_eq, Nat.mul_comm, ← Nat.two_pow_add_eq_or_of_lt b.isLt]

/-- A field of a word, found by arithmetic. -/
theorem extract_of_toNat {n : Nat} (w : BitVec n) (k len : Nat) (v : BitVec len)
    (h : w.toNat / 2 ^ k % 2 ^ len = v.toNat) : w.extractLsb' k len = v := by
  apply BitVec.eq_of_toNat_eq
  rw [BitVec.extractLsb'_toNat, Nat.shiftRight_eq_div_pow, h]

end Sys2Proof
end

