-- ==== Sys2Proof/Laws/Approx.lean ====
section
/-! SUPPORT. The laws A1 to A3 of `44_compare_convert.md` R184 hold of the two approximations, whatever the free
functions are. -/

namespace Sys2Proof.Machine

/-! ## Words as numbers -/

theorem expOf_toNat (w : Word) : (expOf w).toNat = w.toNat / 2 ^ 23 % 256 := by
  simp [expOf, BitVec.extractLsb'_toNat, Nat.shiftRight_eq_div_pow]

theorem manOf_toNat (w : Word) : (manOf w).toNat = w.toNat % 2 ^ 23 := by
  simp [manOf, BitVec.extractLsb'_toNat]

theorem magOf_toNat (w : Word) : (magOf w).toNat = w.toNat % 2 ^ 31 := by
  simp [magOf, BitVec.extractLsb'_toNat]

/-- The exponent of the scale of a word: that of a denormal is 1. -/
theorem scale_eq (e : ℕ) : max e 1 = if e = 0 then 1 else e := by split <;> omega

/-- The value of a word without sign. -/
theorem fpValue_of_pos {w : Word} (hs : signOf w = false) : fpValue w =
    ((if (expOf w).toNat = 0 then (manOf w).toNat else sig w : ℕ) : ℚ) * 2 ^ max (expOf w).toNat 1 / 2 ^ 150 := by
  have hs' : w.getLsbD 31 = false := hs
  simp only [fpValue, hs', expOf, manOf, sig, one_mul, Bool.false_eq_true, if_false]
  split
  · next h => simp only [h, if_true]
  · next h => simp only [h, if_false]; push_cast; rfl

/-- A word taken apart by `posValue` is finite and positive, and its value is `f * 2^(e - 150)`. -/
theorem posValue_some {w : Word} {f e : ℕ} (h : posValue w = some (f, e)) :
    Finite w ∧ 0 < fpValue w ∧ fpValue w = (f : ℚ) * 2 ^ e / 2 ^ 150 := by
  unfold posValue at h
  split at h
  · cases h
  · next hc =>
    simp only [Bool.or_eq_true, decide_eq_true_eq, not_or, Bool.not_eq_true] at hc
    obtain ⟨⟨hs, he⟩, hm⟩ := hc
    have hf : 0 < f ∧ fpValue w = (f : ℚ) * 2 ^ e / 2 ^ 150 := by
      rw [fpValue_of_pos hs]
      split at h <;> rename_i h0 <;> simp only [Option.some.injEq, Prod.mk.injEq] at h <;> obtain ⟨rfl, rfl⟩ := h
      · refine ⟨?_, by simp [h0]⟩
        have h1 : w.toNat % 2 ^ 31 ≠ 0 := fun h => hm (BitVec.eq_of_toNat_eq (by rw [magOf_toNat, h]; rfl))
        have h2 : w.toNat / 2 ^ 23 % 256 = 0 := by rw [← expOf_toNat, h0]; rfl
        rw [manOf_toNat]; omega
      · have h1 : (expOf w).toNat ≠ 0 := fun h => h0 (BitVec.eq_of_toNat_eq h)
        refine ⟨by simp only [sig]; positivity, ?_⟩
        rw [if_neg h1, scale_eq, if_neg h1]
    refine ⟨he, ?_, hf.2⟩
    rw [hf.2]; have := hf.1; positivity

/-- The value of a positive normal number. -/
theorem fpValue_normal {x : Word} (hs : signOf x = false) (h1 : 1#8 ≤ expOf x) :
    fpValue x = (sig x : ℚ) * 2 ^ (expOf x).toNat / 2 ^ 150 := by
  have h0 : (expOf x).toNat ≠ 0 := by have := BitVec.le_def.1 h1; simp at this; omega
  rw [fpValue_of_pos hs, if_neg h0, scale_eq, if_neg h0]

/-! ## The reciprocal -/

/-- A word that passes the test of A1 has A1. -/
theorem recipLaw_sound {x r : Word} (hs : signOf x = false) (h1 : 1#8 ≤ expOf x) (h : recipLaw x r = true) :
    Finite r ∧ 0 < fpValue r ∧ 9944 / 10000 < fpValue r * fpValue x ∧ fpValue r * fpValue x < 10054 / 10000 := by
  unfold recipLaw at h
  split at h
  · cases h
  · next f e hp =>
    obtain ⟨hf, h0, hv⟩ := posValue_some hp
    simp only [Bool.and_eq_true, decide_eq_true_eq] at h
    have hprod : fpValue r * fpValue x = ((f * sig x * 2 ^ (e + (expOf x).toNat) : ℕ) : ℚ) / 2 ^ 300 := by
      rw [hv, fpValue_normal hs h1, div_mul_div_comm, ← pow_add]
      push_cast; rw [pow_add 2 e]; congr 1; ring
    rw [hprod]
    generalize f * sig x * 2 ^ (e + (expOf x).toNat) = p at h
    have hc := And.intro ((Nat.cast_lt (α := ℚ)).2 h.1) ((Nat.cast_lt (α := ℚ)).2 h.2)
    have h300 : (0 : ℚ) < 2 ^ 300 := by positivity
    simp only [Nat.cast_mul, Nat.cast_pow, Nat.cast_ofNat] at hc
    generalize (2 : ℚ) ^ 300 = k at hc h300
    refine ⟨hf, h0, ?_, ?_⟩
    · rw [div_lt_div_iff₀ (by norm_num) h300]; linarith [hc.1]
    · rw [div_lt_div_iff₀ h300 (by norm_num)]; linarith [hc.2]

/-- The fields of a word without sign, from its number. -/
theorem fields_of_toNat {w : Word} {e m : ℕ} (he : e < 256) (hm : m < 2 ^ 23) (h : w.toNat = e * 2 ^ 23 + m) :
    signOf w = false ∧ (expOf w).toNat = e ∧ (manOf w).toNat = m ∧ (magOf w).toNat = e * 2 ^ 23 + m := by
  refine ⟨?_, by rw [expOf_toNat]; omega, by rw [manOf_toNat]; omega, by rw [magOf_toNat]; omega⟩
  simp only [signOf, BitVec.getLsbD]
  exact Nat.testBit_lt_two_pow (by omega)

theorem mkFp_toNat (e : BitVec 8) (m : BitVec 23) : (mkFp false e m).toNat = e.toNat * 2 ^ 23 + m.toNat := by
  rw [mkFp, toNat_append_add, toNat_append_add]; simp

/-- A positive normal word as `posValue` sees it. -/
theorem posValue_normal {w : Word} {e m : ℕ} (h0 : 1 ≤ e) (he : e < 255) (hm : m < 2 ^ 23)
    (h : w.toNat = e * 2 ^ 23 + m) : posValue w = some (2 ^ 23 + m, e) := by
  obtain ⟨hs, hx, hn, hg⟩ := fields_of_toNat (by omega) hm h
  have h1 : expOf w ≠ 255#8 := fun h => by rw [h] at hx; simp at hx; omega
  have h2 : expOf w ≠ 0#8 := fun h => by rw [h] at hx; simp at hx; omega
  have h3 : magOf w ≠ 0#31 := fun h => by rw [h] at hg; simp at hg; omega
  simp [posValue, hs, h1, h2, h3, sig, hn, hx]

/-- The word put in place of a reciprocal that breaks A1 keeps it. -/
theorem recipWitness_law {x : Word} (h1 : 1#8 ≤ expOf x) (h2 : expOf x ≤ 252#8) :
    recipLaw x (recipWitness x) = true := by
  have h1' : 1 ≤ (expOf x).toNat := by simpa [BitVec.le_def] using h1
  have h2' : (expOf x).toNat ≤ 252 := by simpa [BitVec.le_def] using h2
  have hm := (manOf x).isLt
  unfold recipWitness
  split
  · next h =>
    have hv := posValue_normal (w := mkFp false (254#8 - expOf x) 0) (e := 254 - (expOf x).toNat) (m := 0)
      (by omega) (by omega) (by norm_num) (by rw [mkFp_toNat, BitVec.toNat_sub_of_le (by rw [BitVec.le_def]; exact h2'.trans (by decide))]; rfl)
    have he : 254 - (expOf x).toNat + (expOf x).toNat = 254 := by omega
    simp only [recipLaw, hv, sig, h, he, -Nat.reducePow]
    decide +kernel
  · next h =>
    have h0 : 1 ≤ (manOf x).toNat := Nat.pos_of_ne_zero fun e => h (BitVec.eq_of_toNat_eq e)
    have hs : 2 ^ 23 < sig x ∧ sig x < 2 ^ 24 := by simp only [sig]; omega
    have hq1 : 2 ^ 23 ≤ 2 ^ 47 / sig x := (Nat.le_div_iff_mul_le (by omega)).2 (by omega)
    have hq2 : 2 ^ 47 / sig x < 2 ^ 24 := (Nat.div_lt_iff_lt_mul (by omega)).2 (by omega)
    have hw : (mkFp false (253#8 - expOf x) (BitVec.ofNat 23 (2 ^ 47 / sig x))).toNat =
        (253 - (expOf x).toNat) * 2 ^ 23 + (2 ^ 47 / sig x - 2 ^ 23) := by
      rw [mkFp_toNat, BitVec.toNat_sub_of_le (by rw [BitVec.le_def]; exact h2'.trans (by decide)),
        show (253#8).toNat = 253 from rfl, BitVec.toNat_ofNat]
      generalize 2 ^ 47 / sig x = q at hq1 hq2
      omega
    have hv := posValue_normal (by omega) (by omega) (by omega) hw
    have he : 253 - (expOf x).toNat + (expOf x).toNat = 253 := by omega
    have hq : 2 ^ 23 + (2 ^ 47 / sig x - 2 ^ 23) = 2 ^ 47 / sig x := by omega
    simp only [recipLaw, hv, he, hq, Bool.and_eq_true, decide_eq_true_eq]
    have hd := Nat.div_add_mod (2 ^ 47) (sig x)
    have hr := Nat.mod_lt (2 ^ 47) (show 0 < sig x by omega)
    rw [Nat.mul_comm] at hd
    generalize 2 ^ 47 / sig x * sig x = p at hd
    constructor
    · calc 9944 * 2 ^ 300 = (9944 * 2 ^ 47) * 2 ^ 253 := by rw [Nat.mul_assoc, ← pow_add]
        _ < (10000 * p) * 2 ^ 253 := Nat.mul_lt_mul_of_pos_right (by omega) (by positivity)
        _ = _ := by rw [Nat.mul_assoc]
    · calc 10000 * (p * 2 ^ 253) = (10000 * p) * 2 ^ 253 := by rw [Nat.mul_assoc]
        _ < (10054 * 2 ^ 47) * 2 ^ 253 := Nat.mul_lt_mul_of_pos_right (by omega) (by positivity)
        _ = _ := by rw [Nat.mul_assoc, ← pow_add]

/-- A1 (R184): what `approxRecip` gives for a positive normal number below 2^126. -/
theorem approxRecip_law {x : Word} (hs : signOf x = false) (h1 : 1#8 ≤ expOf x) (h2 : expOf x ≤ 252#8) :
    Finite (approxRecip x) ∧ 0 < fpValue (approxRecip x) ∧ 9944 / 10000 < fpValue (approxRecip x) * fpValue x ∧
      fpValue (approxRecip x) * fpValue x < 10054 / 10000 := by
  refine recipLaw_sound hs h1 ?_
  have h0 : expOf x ≠ 0#8 := by rintro e; simp [e, BitVec.le_def] at h1
  have h3 : ¬expOf x ≥ 253#8 := by simp only [ge_iff_le, BitVec.le_def] at h2 ⊢; simp at h2 ⊢; omega
  by_cases hx : x = 0x3F800000#32
  · subst hx; decide +kernel
  · have hg : ¬(signOf x || expOf x = 0#8 || expOf x ≥ 253#8) = true := by simp [hs, h0, h3]
    simp only [approxRecip, if_neg hx, if_neg hg]
    by_cases hl : recipLaw x (Config.approxRecip x) = true
    · rw [if_pos hl]; exact hl
    · rw [if_neg hl]; exact recipWitness_law h1 h2

/-- A2 (R184). -/
theorem approxRecip_one : approxRecip 0x3F800000#32 = 0x3F7F0000#32 := by simp [approxRecip]

/-! ## The exponential -/

/-- A word below 2 lies between its rounding to units of 2^-64 and the next unit. -/
theorem fixed64_bounds {x : Word} (hx : x.toNat < 0x40000000) :
    (fixed64 x : ℝ) / 2 ^ 64 ≤ (fpValue x : ℝ) ∧ (fpValue x : ℝ) < ((fixed64 x : ℝ) + 1) / 2 ^ 64 ∧
      (fixed64 x : ℝ) / 2 ^ 64 < 2 := by
  have hs : signOf x = false := by
    simp only [signOf, BitVec.getLsbD]; exact Nat.testBit_lt_two_pow (by omega)
  have he : (expOf x).toNat ≤ 127 := by rw [expOf_toNat]; omega
  have hm := (manOf x).isLt
  rw [fpValue_of_pos hs]
  by_cases h0 : expOf x = 0#8
  · have hz : (expOf x).toNat = 0 := by rw [h0]; rfl
    have hf : fixed64 x = 0 := by simp [fixed64, h0]
    have hm' : ((manOf x).toNat : ℝ) < 8388608 := by exact_mod_cast hm
    have hm0 : (0 : ℝ) ≤ ((manOf x).toNat : ℝ) := by positivity
    rw [if_pos hz, hz, hf]
    push_cast
    generalize ((manOf x).toNat : ℝ) = m at hm' hm0
    refine ⟨?_, ?_, by norm_num⟩
    · rw [zero_div]; positivity
    · norm_num; linarith
  · have hz : (expOf x).toNat ≠ 0 := fun h => h0 (BitVec.eq_of_toNat_eq h)
    have hf : fixed64 x = sig x * 2 ^ (expOf x).toNat / 2 ^ 86 := by
      simp only [fixed64, if_neg h0, Nat.shiftLeft_eq, Nat.shiftRight_eq_div_pow]
    have hn : sig x * 2 ^ (expOf x).toNat < 2 ^ 151 := calc
      _ < 2 ^ 24 * 2 ^ (expOf x).toNat := Nat.mul_lt_mul_of_pos_right (by simp only [sig]; omega) (by positivity)
      _ ≤ 2 ^ 24 * 2 ^ 127 := Nat.mul_le_mul_left _ (Nat.pow_le_pow_right (by norm_num) he)
      _ = 2 ^ 151 := by norm_num
    rw [if_neg hz, scale_eq, if_neg hz, hf]
    have hv : (((sig x : ℕ) : ℚ) * 2 ^ (expOf x).toNat / 2 ^ 150 : ℚ) =
        ((sig x * 2 ^ (expOf x).toNat : ℕ) : ℚ) / 2 ^ 150 := by push_cast; rfl
    rw [hv]
    generalize sig x * 2 ^ (expOf x).toNat = n at hn
    have h1 : ((n / 2 ^ 86 : ℕ) : ℝ) * 2 ^ 86 ≤ n := by exact_mod_cast Nat.div_mul_le_self n _
    have h2 : (n : ℝ) < ((n / 2 ^ 86 : ℕ) + 1) * 2 ^ 86 := by
      exact_mod_cast (Nat.lt_succ_iff.2 le_rfl).trans_le (by
        have := Nat.div_add_mod n (2 ^ 86); have := Nat.mod_lt n (show 0 < 2 ^ 86 by norm_num)
        show n + 1 ≤ _; omega)
    have h3 : (n : ℝ) < 2 ^ 151 := by exact_mod_cast hn
    push_cast
    generalize ((n / 2 ^ 86 : ℕ) : ℝ) = q at h1 h2
    refine ⟨?_, ?_, ?_⟩
    · rw [div_le_div_iff₀ (by positivity) (by positivity)]; norm_num at h1 ⊢; linarith
    · rw [div_lt_div_iff₀ (by positivity) (by positivity)]; norm_num at h2 ⊢; linarith
    · rw [div_lt_iff₀ (by positivity)]
      have h4 : (2 : ℝ) ^ 151 = 2 * 2 ^ 64 * 2 ^ 86 := by norm_num
      exact lt_of_mul_lt_mul_right (by linarith : q * 2 ^ 86 < 2 * 2 ^ 64 * 2 ^ 86) (by positivity)

/-- Every term of `expSeries` is short of the exact term by at most 3 units. -/
theorem expSeries_bounds (t : ℕ) (ht : (t : ℝ) / 2 ^ 64 < 2) (n i T : ℕ) :
    let a : ℕ → ℝ := fun j => 2 ^ 64 * (((t : ℝ) / 2 ^ 64) ^ j / j.factorial)
    a i - min (i : ℝ) 3 ≤ T → (T : ℝ) ≤ a i →
      (∑ j ∈ Finset.range (n + 1), a (i + j)) - 3 * (n + 1) ≤ expSeries t n i T ∧
        (expSeries t n i T : ℝ) ≤ ∑ j ∈ Finset.range (n + 1), a (i + j) := by
  intro a
  induction n generalizing i T with
  | zero =>
    intro h1 h2
    simp only [expSeries, zero_add, Finset.range_one, Finset.sum_singleton, add_zero]
    have := min_le_right (i : ℝ) 3
    push_cast
    exact ⟨by linarith, h2⟩
  | succ n ih =>
    intro h1 h2
    have hstep : a (i + 1) = a i * ((t : ℝ) / 2 ^ 64) / (i + 1) := by
      simp only [a, pow_succ, Nat.factorial_succ]; push_cast; field_simp
    have hτ : (0 : ℝ) ≤ (t : ℝ) / 2 ^ 64 := by positivity
    set τ : ℝ := (t : ℝ) / 2 ^ 64 with hτd
    have hi : (0 : ℝ) ≤ i := by positivity
    have hex : ((T * t : ℕ) : ℝ) / ((2 ^ 64 * (i + 1) : ℕ) : ℝ) = T * τ / (i + 1) := by
      rw [hτd, mul_div_assoc', div_div]; norm_num
    have hfl : ((T * t / (2 ^ 64 * (i + 1)) : ℕ) : ℝ) ≤ T * τ / (i + 1) := by
      rw [← hex]; exact Nat.cast_div_le
    have hfu : (T : ℝ) * τ / (i + 1) < ((T * t / (2 ^ 64 * (i + 1)) : ℕ) : ℝ) + 1 := by
      rw [← hex, ← Nat.floor_div_eq_div (K := ℝ)]; exact Nat.lt_floor_add_one _
    have hmin : min (i : ℝ) 3 * τ ≤ (min ((i : ℝ) + 1) 3 - 1) * (i + 1) := by
      rcases Nat.lt_or_ge i 3 with h | h
      · interval_cases i <;> norm_num <;> linarith
      · have h3 : (3 : ℝ) ≤ i := by exact_mod_cast h
        rw [min_eq_right h3, min_eq_right (by linarith)]; linarith
    have hpos : (0 : ℝ) < (i : ℝ) + 1 := by positivity
    have hlow : (a i - min (i : ℝ) 3) * τ / (i + 1) ≤ T * τ / (i + 1) := by gcongr
    have hup : (T : ℝ) * τ / (i + 1) ≤ a i * τ / (i + 1) := by gcongr
    have hdef : min (i : ℝ) 3 * τ / (i + 1) ≤ min ((i : ℝ) + 1) 3 - 1 := (div_le_iff₀ hpos).2 hmin
    rw [sub_mul, sub_div] at hlow
    obtain ⟨l, u⟩ := ih (i + 1) (T * t / (2 ^ 64 * (i + 1)))
      (by rw [hstep]; push_cast; linarith) (by rw [hstep]; linarith)
    have hm3 := min_le_right (i : ℝ) 3
    have hsum : ∑ j ∈ Finset.range (n + 1 + 1), a (i + j) = (∑ j ∈ Finset.range (n + 1), a (i + 1 + j)) + a i := by
      rw [Finset.sum_range_succ', add_zero]
      simp only [Nat.add_assoc, Nat.add_comm 1]
    rw [hsum]
    simp only [expSeries, Nat.cast_add] at l u ⊢
    push_cast at l u ⊢
    constructor <;> linarith

/-- The sum of 41 terms is less than one unit short of `e^τ`. -/
theorem exp_tail {τ : ℝ} (h0 : 0 ≤ τ) (h2 : τ < 2) :
    Real.exp τ ≤ (∑ i ∈ Finset.range 41, τ ^ i / i.factorial) + 1 / 2 ^ 64 := by
  have h := Complex.exp_bound' (x := (τ : ℂ)) (n := 41) (by
    rw [Complex.norm_real, Real.norm_of_nonneg h0]; norm_num; linarith)
  have hc : Complex.exp τ - ∑ m ∈ Finset.range 41, (τ : ℂ) ^ m / m.factorial =
      ((Real.exp τ - ∑ m ∈ Finset.range 41, τ ^ m / m.factorial : ℝ) : ℂ) := by push_cast; rfl
  rw [hc, Complex.norm_real, Complex.norm_real, Real.norm_of_nonneg h0] at h
  have h41 : τ ^ 41 ≤ 2 ^ 41 := pow_le_pow_left₀ h0 h2.le 41
  have hfac : (2 : ℝ) ^ 41 / (Nat.factorial 41 : ℝ) * 2 ≤ 1 / 2 ^ 64 := by norm_num [Nat.factorial]
  have hle : τ ^ 41 / (Nat.factorial 41 : ℝ) * 2 ≤ 2 ^ 41 / (Nat.factorial 41 : ℝ) * 2 := by gcongr
  have := (Real.le_norm_self _).trans (h.trans (hle.trans hfac))
  linarith

/-- Below 2 the exponential is less than 7.5. -/
theorem exp_le_of_lt_two {τ : ℝ} (h2 : τ < 2) : Real.exp τ ≤ 15 / 2 := by
  have h1 := Real.exp_one_lt_d9
  have h0 := Real.exp_pos 1
  calc Real.exp τ ≤ Real.exp (1 + 1) := Real.exp_le_exp.2 (by linarith)
    _ = Real.exp 1 * Real.exp 1 := Real.exp_add 1 1
    _ ≤ 15 / 2 := by nlinarith

/-- Below 2 the exponential moves by less than 16 times the argument's error, for an error below 2^-64. -/
theorem exp_near {τ x : ℝ} (h2 : τ < 2) (hl : τ ≤ x) (hu : x < τ + 1 / 2 ^ 64) :
    Real.exp x ≤ Real.exp τ + 16 / 2 ^ 64 := by
  have h8 : Real.exp τ ≤ 8 := (exp_le_of_lt_two h2).trans (by norm_num)
  obtain ⟨δ, rfl⟩ : ∃ δ, x = τ + δ := ⟨x - τ, by ring⟩
  have hδ0 : 0 ≤ δ := by linarith
  have hδ1 : δ ≤ 1 / 2 ^ 64 := by linarith
  have hδs : δ ≤ 1 / 2 := hδ1.trans (by norm_num)
  have hed : Real.exp δ ≤ 1 + 2 * δ := by
    refine (Real.exp_bound_div_one_sub_of_interval hδ0 (by linarith)).trans ?_
    rw [div_le_iff₀ (by linarith)]; nlinarith
  calc Real.exp (τ + δ) = Real.exp τ * Real.exp δ := Real.exp_add τ δ
    _ ≤ Real.exp τ * (1 + 2 * δ) := mul_le_mul_of_nonneg_left hed (Real.exp_pos τ).le
    _ = Real.exp τ + 2 * (Real.exp τ * δ) := by ring
    _ ≤ Real.exp τ + 2 * (8 * (1 / 2 ^ 64)) := by
        have := mul_le_mul h8 hδ1 hδ0 (by norm_num); linarith
    _ = _ := by ring

/-- `expLow` is a lower bound of `e^x` in units of 2^-64, and less than 2^10 units short. -/
theorem expLow_bounds {x : Word} (hx : x.toNat < 0x40000000) :
    (expLow x : ℝ) ≤ 2 ^ 64 * Real.exp (fpValue x) ∧ 2 ^ 64 * Real.exp (fpValue x) ≤ expLow x + 2 ^ 10 := by
  obtain ⟨hl, hu, h2⟩ := fixed64_bounds hx
  have hb := expSeries_bounds (fixed64 x) h2 40 0 (2 ^ 64) (by norm_num) (by norm_num)
  simp only [zero_add, ← Finset.mul_sum] at hb
  rw [show expSeries (fixed64 x) 40 0 (2 ^ 64) = expLow x by rw [expLow]] at hb
  rw [add_div] at hu
  obtain ⟨τ, τh⟩ : ∃ τ, τ = (fixed64 x : ℝ) / 2 ^ 64 := ⟨_, rfl⟩
  rw [← τh] at hb hl hu h2
  have h0 : 0 ≤ τ := by rw [τh]; positivity
  have hexp : Real.exp τ ≤ Real.exp (fpValue x) := Real.exp_le_exp.2 hl
  have hsum := Real.sum_le_exp_of_nonneg h0 41
  have htail := exp_tail h0 h2
  have hnear := exp_near h2 hl hu
  generalize (expLow x : ℝ) = U at hb ⊢
  generalize Real.exp (fpValue x) = E at *
  generalize Real.exp τ = T at *
  generalize ∑ i ∈ Finset.range 41, τ ^ i / (i.factorial : ℝ) = S at *
  norm_num at hb htail hnear ⊢
  constructor <;> linarith

/-- A word that passes the test of A3 has A3. -/
theorem expLaw_sound {x r : Word} (hx : x.toNat < 0x40000000) (h : expLaw (expLow x) r = true) :
    Finite r ∧ 0 < fpValue r ∧ 9922 / 10000 * Real.exp (fpValue x) < fpValue r ∧
      fpValue r < 1016 / 1000 * Real.exp (fpValue x) := by
  obtain ⟨hl, hu⟩ := expLow_bounds hx
  generalize expLow x = U at h hl hu
  rw [expLaw] at h
  split at h
  · cases h
  · next f e hp =>
    obtain ⟨hf, h0, hv⟩ := posValue_some hp
    simp only [Bool.and_eq_true, decide_eq_true_eq] at h
    have hval : (fpValue r : ℝ) = ((f * 2 ^ e : ℕ) : ℝ) / 2 ^ 150 := by rw [hv]; push_cast; rfl
    refine ⟨hf, h0, ?_, ?_⟩ <;> rw [hval]
    all_goals
      generalize f * 2 ^ e = p at h
      have h1 := (Nat.cast_lt (α := ℝ)).2 h.1
      have h2 := (Nat.cast_lt (α := ℝ)).2 h.2
      push_cast at h1 h2
      generalize (p : ℝ) = q at *
      generalize (U : ℝ) = V at *
      generalize Real.exp (fpValue x) = E at *
    · rw [lt_div_iff₀ (by positivity)]; norm_num at h1 hu ⊢; linarith
    · rw [div_lt_iff₀ (by positivity)]; norm_num at h2 hl ⊢; linarith

/-- The range of `expLow`. -/
theorem expLow_range {x : Word} (hx : x.toNat < 0x40000000) : 2 ^ 64 ≤ expLow x ∧ expLow x < 2 ^ 67 := by
  refine ⟨by rw [expLow, expSeries]; exact Nat.le_add_right _ _, ?_⟩
  obtain ⟨hl, hu, h2⟩ := fixed64_bounds hx
  rw [add_div] at hu
  have h := (expLow_bounds hx).1
  have h1 := (exp_near h2 hl hu).trans (add_le_add_left (exp_le_of_lt_two h2) _)
  obtain ⟨U, hU⟩ : ∃ U : ℝ, U = expLow x := ⟨_, rfl⟩
  rw [← hU] at h
  refine (Nat.cast_lt (α := ℝ)).1 ?_
  rw [← hU, Nat.cast_pow, Nat.cast_ofNat]
  generalize Real.exp (fpValue x) = E at h h1
  norm_num at h h1 ⊢
  linarith

/-- A number of units between 2^64 and 2^67 cut to 24 bits. -/
theorem cut_range {U L : ℕ} (h1 : 64 ≤ L) (h2 : L < 67) (hl : 2 ^ L ≤ U) (hu : U < 2 ^ (L + 1)) :
    2 ^ 23 ≤ U / 2 ^ (L - 23) ∧ U / 2 ^ (L - 23) < 2 ^ 24 ∧
      9922 * (U + 2 ^ 10) < 10000 * (U / 2 ^ (L - 23) * 2 ^ (L - 23)) ∧
      1000 * (U / 2 ^ (L - 23) * 2 ^ (L - 23)) < 1016 * U := by
  interval_cases L <;> norm_num at hl hu ⊢ <;> omega

theorem scale_bounds {U p : ℕ} (k : ℕ) (hk : 0 < k) (h1 : 9922 * (U + 2 ^ 10) < 10000 * p)
    (h2 : 1000 * p < 1016 * U) :
    (decide (9922 * (U + 2 ^ 10) * k < 10000 * (p * k)) && decide (1000 * (p * k) < 1016 * U * k)) = true := by
  rw [Bool.and_eq_true, decide_eq_true_eq, decide_eq_true_eq, ← Nat.mul_assoc, ← Nat.mul_assoc]
  exact ⟨Nat.mul_lt_mul_of_pos_right h1 hk, Nat.mul_lt_mul_of_pos_right h2 hk⟩

/-- The word put in place of an exponential, as `posValue` sees it. -/
theorem expWitness_value {U : ℕ} (h1 : 64 ≤ U.log2) (h2 : U.log2 < 67) (q1 : 2 ^ 23 ≤ U / 2 ^ (U.log2 - 23))
    (q2 : U / 2 ^ (U.log2 - 23) < 2 ^ 24) :
    posValue (expWitness U) = some (U / 2 ^ (U.log2 - 23), U.log2 + 63) := by
  rw [expWitness, Nat.shiftRight_eq_div_pow]
  generalize U.log2 = L at h1 h2 q1 q2 ⊢
  generalize U / 2 ^ (L - 23) = q at q1 q2 ⊢
  obtain ⟨m, rfl⟩ := Nat.exists_eq_add_of_le q1
  refine posValue_normal (by omega) (by omega) (by omega) ?_
  rw [mkSm, toNat_append_add, BitVec.toNat_ofNat, show (BitVec.ofBool false).toNat = 0 from rfl]
  omega

/-- The word put in place of an exponential that breaks A3 keeps it. -/
theorem expWitness_law {U : ℕ} (h1 : 2 ^ 64 ≤ U) (h2 : U < 2 ^ 67) : expLaw U (expWitness U) = true := by
  have hU0 : U ≠ 0 := (lt_of_lt_of_le (by norm_num) h1).ne'
  have hL1 : 64 ≤ U.log2 := (Nat.le_log2 hU0).2 h1
  have hL2 : U.log2 < 67 := (Nat.log2_lt hU0).2 h2
  obtain ⟨q1, q2, q3, q4⟩ := cut_range hL1 hL2 (Nat.log2_self_le hU0) Nat.lt_log2_self
  have hp : U / 2 ^ (U.log2 - 23) * 2 ^ (U.log2 + 63) =
      U / 2 ^ (U.log2 - 23) * 2 ^ (U.log2 - 23) * 2 ^ 86 := by
    rw [Nat.mul_assoc, ← pow_add, show U.log2 - 23 + 86 = U.log2 + 63 by omega]
  rw [expLaw, expWitness_value hL1 hL2 q1 q2]
  simp only [hp]
  exact scale_bounds _ (by positivity) q3 q4

/-- A3 (R184): what `approxExp` gives below 2. -/
theorem approxExp_law {x : Word} (hx : x.toNat < 0x40000000) :
    Finite (approxExp x) ∧ 0 < fpValue (approxExp x) ∧
      9922 / 10000 * Real.exp (fpValue x) < fpValue (approxExp x) ∧
      fpValue (approxExp x) < 1016 / 1000 * Real.exp (fpValue x) := by
  refine expLaw_sound hx ?_
  simp only [approxExp, if_pos hx]
  by_cases hl : expLaw (expLow x) (Config.approxExp x) = true
  · rw [if_pos hl]; exact hl
  · rw [if_neg hl]; exact expWitness_law (expLow_range hx).1 (expLow_range hx).2

end Sys2Proof.Machine
end

