-- ==== Sys2Proof/Laws/Memory.lean ====
section
/-! SUPPORT. Dest: a read after a write, and the canonical form. -/

namespace Sys2Proof.Machine

/-- Reading the cell just written. -/
@[simp] theorem Memory.read_write_same (m : Memory) (k : Nat) (v : Half) : (m.write k v).read k = some v := by
  induction m with
  | nil => simp [Memory.write, Memory.read]
  | cons c m ih =>
    obtain ⟨k', w⟩ := c
    simp only [Memory.write]
    split
    · simp [Memory.read]
    · split
      · simp [Memory.read]
      · next h => simp [Memory.read, Ne.symm h, ih]

/-- A write leaves every other cell alone. -/
theorem Memory.read_write_other (m : Memory) {k j : Nat} (v : Half) (h : j ≠ k) :
    (m.write k v).read j = m.read j := by
  induction m with
  | nil => simp [Memory.write, Memory.read, h.symm]
  | cons c m ih =>
    obtain ⟨k', w⟩ := c
    simp only [Memory.write]
    split
    · simp [Memory.read, h.symm]
    · split
      · next hk => subst hk; simp [Memory.read, h.symm]
      · simp [Memory.read, ih]

/-- The keys after a write are the old ones and the one written. -/
theorem Memory.mem_write {m : Memory} {k : Nat} {v : Half} {c : Nat × Half} (h : c ∈ m.write k v) :
    c = (k, v) ∨ c ∈ m := by
  induction m with
  | nil => simpa [Memory.write] using h
  | cons a m ih =>
    obtain ⟨k', w⟩ := a
    simp only [Memory.write] at h
    split at h
    · simpa using h
    · split at h
      · simp only [List.mem_cons] at h ⊢; tauto
      · rcases List.mem_cons.1 h with h | h
        · simp [h]
        · rcases ih h with h | h <;> simp [h]

/-- A write inside the array keeps the canonical form. -/
theorem Memory.wf_write {m : Memory} {k : Nat} (v : Half) (hm : m.wf) (hk : k < Config.dstRows * Config.dstCols) :
    (m.write k v).wf := by
  refine ⟨?_, fun c hc => ?_⟩
  · replace hm := hm.1
    induction m with
    | nil => simp [Memory.write]
    | cons a m ih =>
      obtain ⟨k', w⟩ := a
      rw [List.pairwise_cons] at hm
      simp only [Memory.write]
      split
      · next h =>
        refine List.pairwise_cons.2 ⟨fun c hc => ?_, List.pairwise_cons.2 hm⟩
        rcases List.mem_cons.1 hc with rfl | hc
        · exact h
        · exact h.trans (hm.1 c hc)
      · split
        · next h => subst h; exact List.pairwise_cons.2 hm
        · next h1 h2 =>
          refine List.pairwise_cons.2 ⟨fun c hc => ?_, ih hm.2⟩
          rcases Memory.mem_write hc with rfl | hc
          · simp only; omega
          · exact hm.1 c hc
  · rcases Memory.mem_write hc with rfl | hc
    · exact hk
    · exact hm.2 c hc

/-- Under any overlay that stays in the array, a write of a 32-bit cell keeps the canonical form. -/
theorem Memory.wf_write32 {o : Overlay} {m : Memory} {row col : Nat} (d : Word) (hm : m.wf)
    (h : (o.halfKeys row col).1 < Config.dstRows * Config.dstCols ∧ (o.halfKeys row col).2 < Config.dstRows * Config.dstCols) :
    (m.write32 o row col d).wf :=
  Memory.wf_write _ (Memory.wf_write _ hm h.1) h.2

/-- The keys of a 32-bit cell that the overlay does not list. -/
theorem Overlay.halfKeys_of_lookup_none {o : Overlay} {row col : Nat} (h : o.lookup (row, col) = none) :
    o.halfKeys row col = (cellKey row col, cellKey row col + Config.dst32Rows * Config.dstCols) := by
  simp only [Overlay.halfKeys, Overlay.pair, h, Option.getD_none, candidatePair, cellKey, Prod.mk.injEq, true_and]; ring

@[simp] theorem Overlay.halfKeys_nil (row col : Nat) : Overlay.halfKeys [] row col =
    (cellKey row col, cellKey row col + Config.dst32Rows * Config.dstCols) := Overlay.halfKeys_of_lookup_none rfl

theorem cellKey_lt {row col : Nat} (hr : row < Config.dst32Rows) (hc : col < Config.dstCols) :
    cellKey row col + Config.dst32Rows * Config.dstCols < Config.dstRows * Config.dstCols := by
  simp only [cellKey, Config.dstRows, Config.dstCols, Config.dst32Rows] at *; omega

/-- Reading the 32-bit cell just written, where its halves are two cells. -/
theorem Memory.read32_write32_same {o : Overlay} (m : Memory) {row col : Nat} (d : Word)
    (h : (o.halfKeys row col).1 ≠ (o.halfKeys row col).2) : (m.write32 o row col d).read32 o row col = some (hi16 d ++ lo16 d) := by
  simp [Memory.read32, Memory.write32, Memory.read_write_other _ _ h]

/-- A write of a 32-bit cell leaves every other cell alone. -/
theorem Memory.read_write32_other {o : Overlay} (m : Memory) {row col k : Nat} (d : Word) (h1 : k ≠ (o.halfKeys row col).1)
    (h2 : k ≠ (o.halfKeys row col).2) : (m.write32 o row col d).read k = m.read k := by
  simp [Memory.write32, Memory.read_write_other _ _ h1, Memory.read_write_other _ _ h2]

/-- The row and the column of a lane lie in the array (R43, R44). -/
theorem destRow_lt (s : State) (imm10 : BitVec 10) (l : LaneIx) : destRow (destAddr s imm10) l < Config.dstRows := by
  have := l.isLt
  simp only [destRow, laneRow, destAddr, Config.dstRows, Config.addrBits, Config.gridCols]; omega

theorem destCol_lt (addr : Nat) (e : Bool) (l : LaneIx) : destCol addr e l < Config.dstCols := by
  simp only [destCol, Config.dstCols, Config.gridCols]; split <;> omega

end Sys2Proof.Machine
end

