-- ==== Sys2Proof/Laws/State.lean ====
section
/-! SUPPORT. What each update of the state leaves alone and what it sets: one lemma per field per update, true by
unfolding. -/

namespace Sys2Proof.Machine

/-! ## State.mapLanes -/

@[simp] theorem State.mapLanes_dest (s : State) (f : LaneIx → Lane → Lane) : (s.mapLanes f).dest = s.dest := by
  simp only [State.mapLanes]
@[simp] theorem State.mapLanes_tensix (s : State) (f : LaneIx → Lane → Lane) : (s.mapLanes f).tensix = s.tensix := by
  simp only [State.mapLanes]
@[simp] theorem State.mapLanes_program (s : State) (f : LaneIx → Lane → Lane) : (s.mapLanes f).program = s.program := by
  simp only [State.mapLanes]
@[simp] theorem State.mapLanes_thread (s : State) (f : LaneIx → Lane → Lane) : (s.mapLanes f).thread = s.thread := by
  simp only [State.mapLanes]
@[simp] theorem State.mapLanes_overlay (s : State) (f : LaneIx → Lane → Lane) : (s.mapLanes f).overlay = s.overlay := by
  simp only [State.mapLanes]
@[simp] theorem State.mapLanes_pos (s : State) (f : LaneIx → Lane → Lane) : (s.mapLanes f).pos = s.pos := by
  simp only [State.mapLanes]
@[simp] theorem State.mapLanes_pending (s : State) (f : LaneIx → Lane → Lane) : (s.mapLanes f).pending = s.pending := by
  simp only [State.mapLanes]
@[simp] theorem State.mapLanes_nopRequired (s : State) (f : LaneIx → Lane → Lane) : (s.mapLanes f).nopRequired = s.nopRequired := by
  simp only [State.mapLanes]

/-! ## State.writeLanesIf -/

@[simp] theorem State.writeLanesIf_dest (s : State) (en : LaneIx → Bool) (dst : LaneIx → Reg) (val : LaneIx → Word) : (s.writeLanesIf en dst val).dest = s.dest := by
  simp only [State.writeLanesIf, State.mapLanes_dest]
@[simp] theorem State.writeLanesIf_tensix (s : State) (en : LaneIx → Bool) (dst : LaneIx → Reg) (val : LaneIx → Word) : (s.writeLanesIf en dst val).tensix = s.tensix := by
  simp only [State.writeLanesIf, State.mapLanes_tensix]
@[simp] theorem State.writeLanesIf_program (s : State) (en : LaneIx → Bool) (dst : LaneIx → Reg) (val : LaneIx → Word) : (s.writeLanesIf en dst val).program = s.program := by
  simp only [State.writeLanesIf, State.mapLanes_program]
@[simp] theorem State.writeLanesIf_thread (s : State) (en : LaneIx → Bool) (dst : LaneIx → Reg) (val : LaneIx → Word) : (s.writeLanesIf en dst val).thread = s.thread := by
  simp only [State.writeLanesIf, State.mapLanes_thread]
@[simp] theorem State.writeLanesIf_overlay (s : State) (en : LaneIx → Bool) (dst : LaneIx → Reg) (val : LaneIx → Word) : (s.writeLanesIf en dst val).overlay = s.overlay := by
  simp only [State.writeLanesIf, State.mapLanes_overlay]
@[simp] theorem State.writeLanesIf_pos (s : State) (en : LaneIx → Bool) (dst : LaneIx → Reg) (val : LaneIx → Word) : (s.writeLanesIf en dst val).pos = s.pos := by
  simp only [State.writeLanesIf, State.mapLanes_pos]
@[simp] theorem State.writeLanesIf_pending (s : State) (en : LaneIx → Bool) (dst : LaneIx → Reg) (val : LaneIx → Word) : (s.writeLanesIf en dst val).pending = s.pending := by
  simp only [State.writeLanesIf, State.mapLanes_pending]
@[simp] theorem State.writeLanesIf_nopRequired (s : State) (en : LaneIx → Bool) (dst : LaneIx → Reg) (val : LaneIx → Word) : (s.writeLanesIf en dst val).nopRequired = s.nopRequired := by
  simp only [State.writeLanesIf, State.mapLanes_nopRequired]

/-! ## State.writeLanes -/

@[simp] theorem State.writeLanes_dest (s : State) (dst : LaneIx → Reg) (val : LaneIx → Word) : (s.writeLanes dst val).dest = s.dest := by
  simp only [State.writeLanes, State.writeLanesIf_dest]
@[simp] theorem State.writeLanes_tensix (s : State) (dst : LaneIx → Reg) (val : LaneIx → Word) : (s.writeLanes dst val).tensix = s.tensix := by
  simp only [State.writeLanes, State.writeLanesIf_tensix]
@[simp] theorem State.writeLanes_program (s : State) (dst : LaneIx → Reg) (val : LaneIx → Word) : (s.writeLanes dst val).program = s.program := by
  simp only [State.writeLanes, State.writeLanesIf_program]
@[simp] theorem State.writeLanes_thread (s : State) (dst : LaneIx → Reg) (val : LaneIx → Word) : (s.writeLanes dst val).thread = s.thread := by
  simp only [State.writeLanes, State.writeLanesIf_thread]
@[simp] theorem State.writeLanes_overlay (s : State) (dst : LaneIx → Reg) (val : LaneIx → Word) : (s.writeLanes dst val).overlay = s.overlay := by
  simp only [State.writeLanes, State.writeLanesIf_overlay]
@[simp] theorem State.writeLanes_pos (s : State) (dst : LaneIx → Reg) (val : LaneIx → Word) : (s.writeLanes dst val).pos = s.pos := by
  simp only [State.writeLanes, State.writeLanesIf_pos]
@[simp] theorem State.writeLanes_pending (s : State) (dst : LaneIx → Reg) (val : LaneIx → Word) : (s.writeLanes dst val).pending = s.pending := by
  simp only [State.writeLanes, State.writeLanesIf_pending]
@[simp] theorem State.writeLanes_nopRequired (s : State) (dst : LaneIx → Reg) (val : LaneIx → Word) : (s.writeLanes dst val).nopRequired = s.nopRequired := by
  simp only [State.writeLanes, State.writeLanesIf_nopRequired]

/-! ## State.setFlags -/

@[simp] theorem State.setFlags_dest (s : State) (flag : LaneIx → Bool) : (s.setFlags flag).dest = s.dest := by
  simp only [State.setFlags, State.mapLanes_dest]
@[simp] theorem State.setFlags_tensix (s : State) (flag : LaneIx → Bool) : (s.setFlags flag).tensix = s.tensix := by
  simp only [State.setFlags, State.mapLanes_tensix]
@[simp] theorem State.setFlags_program (s : State) (flag : LaneIx → Bool) : (s.setFlags flag).program = s.program := by
  simp only [State.setFlags, State.mapLanes_program]
@[simp] theorem State.setFlags_thread (s : State) (flag : LaneIx → Bool) : (s.setFlags flag).thread = s.thread := by
  simp only [State.setFlags, State.mapLanes_thread]
@[simp] theorem State.setFlags_overlay (s : State) (flag : LaneIx → Bool) : (s.setFlags flag).overlay = s.overlay := by
  simp only [State.setFlags, State.mapLanes_overlay]
@[simp] theorem State.setFlags_pos (s : State) (flag : LaneIx → Bool) : (s.setFlags flag).pos = s.pos := by
  simp only [State.setFlags, State.mapLanes_pos]
@[simp] theorem State.setFlags_pending (s : State) (flag : LaneIx → Bool) : (s.setFlags flag).pending = s.pending := by
  simp only [State.setFlags, State.mapLanes_pending]
@[simp] theorem State.setFlags_nopRequired (s : State) (flag : LaneIx → Bool) : (s.setFlags flag).nopRequired = s.nopRequired := by
  simp only [State.setFlags, State.mapLanes_nopRequired]

/-! ## State.setPrng -/

@[simp] theorem State.setPrng_dest (s : State) (prng : LaneIx → Word) : (s.setPrng prng).dest = s.dest := by
  simp only [State.setPrng, State.mapLanes_dest]
@[simp] theorem State.setPrng_tensix (s : State) (prng : LaneIx → Word) : (s.setPrng prng).tensix = s.tensix := by
  simp only [State.setPrng, State.mapLanes_tensix]
@[simp] theorem State.setPrng_program (s : State) (prng : LaneIx → Word) : (s.setPrng prng).program = s.program := by
  simp only [State.setPrng, State.mapLanes_program]
@[simp] theorem State.setPrng_thread (s : State) (prng : LaneIx → Word) : (s.setPrng prng).thread = s.thread := by
  simp only [State.setPrng, State.mapLanes_thread]
@[simp] theorem State.setPrng_overlay (s : State) (prng : LaneIx → Word) : (s.setPrng prng).overlay = s.overlay := by
  simp only [State.setPrng, State.mapLanes_overlay]
@[simp] theorem State.setPrng_pos (s : State) (prng : LaneIx → Word) : (s.setPrng prng).pos = s.pos := by
  simp only [State.setPrng, State.mapLanes_pos]
@[simp] theorem State.setPrng_pending (s : State) (prng : LaneIx → Word) : (s.setPrng prng).pending = s.pending := by
  simp only [State.setPrng, State.mapLanes_pending]
@[simp] theorem State.setPrng_nopRequired (s : State) (prng : LaneIx → Word) : (s.setPrng prng).nopRequired = s.nopRequired := by
  simp only [State.setPrng, State.mapLanes_nopRequired]

/-! ## State.retire -/

@[simp] theorem State.retire_lanes (s : State) (p : List Reg) : (s.retire p).lanes = s.lanes := rfl
@[simp] theorem State.retire_dest (s : State) (p : List Reg) : (s.retire p).dest = s.dest := rfl
@[simp] theorem State.retire_tensix (s : State) (p : List Reg) : (s.retire p).tensix = s.tensix := rfl
@[simp] theorem State.retire_program (s : State) (p : List Reg) : (s.retire p).program = s.program := rfl
@[simp] theorem State.retire_thread (s : State) (p : List Reg) : (s.retire p).thread = s.thread := rfl
@[simp] theorem State.retire_overlay (s : State) (p : List Reg) : (s.retire p).overlay = s.overlay := rfl

/-! ## State.requireNop -/

@[simp] theorem State.requireNop_lanes (s : State) (b : Bool) : (s.requireNop b).lanes = s.lanes := rfl
@[simp] theorem State.requireNop_dest (s : State) (b : Bool) : (s.requireNop b).dest = s.dest := rfl
@[simp] theorem State.requireNop_tensix (s : State) (b : Bool) : (s.requireNop b).tensix = s.tensix := rfl
@[simp] theorem State.requireNop_program (s : State) (b : Bool) : (s.requireNop b).program = s.program := rfl
@[simp] theorem State.requireNop_thread (s : State) (b : Bool) : (s.requireNop b).thread = s.thread := rfl
@[simp] theorem State.requireNop_overlay (s : State) (b : Bool) : (s.requireNop b).overlay = s.overlay := rfl
@[simp] theorem State.requireNop_pos (s : State) (b : Bool) : (s.requireNop b).pos = s.pos := rfl
@[simp] theorem State.requireNop_pending (s : State) (b : Bool) : (s.requireNop b).pending = s.pending := rfl

/-! ## State.applyAddrMod -/

@[simp] theorem State.applyAddrMod_lanes (s : State) (m : BitVec 3) : (s.applyAddrMod m).lanes = s.lanes := rfl
@[simp] theorem State.applyAddrMod_dest (s : State) (m : BitVec 3) : (s.applyAddrMod m).dest = s.dest := rfl
@[simp] theorem State.applyAddrMod_program (s : State) (m : BitVec 3) : (s.applyAddrMod m).program = s.program := rfl
@[simp] theorem State.applyAddrMod_thread (s : State) (m : BitVec 3) : (s.applyAddrMod m).thread = s.thread := rfl
@[simp] theorem State.applyAddrMod_overlay (s : State) (m : BitVec 3) : (s.applyAddrMod m).overlay = s.overlay := rfl
@[simp] theorem State.applyAddrMod_pos (s : State) (m : BitVec 3) : (s.applyAddrMod m).pos = s.pos := rfl
@[simp] theorem State.applyAddrMod_pending (s : State) (m : BitVec 3) : (s.applyAddrMod m).pending = s.pending := rfl
@[simp] theorem State.applyAddrMod_nopRequired (s : State) (m : BitVec 3) : (s.applyAddrMod m).nopRequired = s.nopRequired := rfl

@[simp] theorem State.retire_pos (s : State) (p : List Reg) : (s.retire p).pos = s.pos + 1 := rfl
@[simp] theorem State.retire_pending (s : State) (p : List Reg) : (s.retire p).pending = p := rfl
@[simp] theorem State.retire_nopRequired (s : State) (p : List Reg) : (s.retire p).nopRequired = false := rfl
@[simp] theorem State.requireNop_nopRequired (s : State) (b : Bool) : (s.requireNop b).nopRequired = b := rfl

/-! ## The counters RWCs -/

/-- The counters of a thread after those of one thread were replaced. -/
theorem setRwc_getD (n : Nat) (rwcs : List Rwc) (r : Rwc) (k : Nat) :
    (setRwc n rwcs r).getD k ⟨0, 0⟩ = if k = n then r else rwcs.getD k ⟨0, 0⟩ := by
  induction n generalizing rwcs k with
  | zero => cases k <;> cases rwcs <;> simp [setRwc]
  | succ n ih =>
    cases k with
    | zero => cases rwcs <;> simp [setRwc]
    | succ k =>
      have h := ih rwcs.tail k
      cases rwcs <;> simpa [setRwc] using h

/-- What an access leaves in `RWCs[Thread]`. -/
@[simp] theorem State.applyAddrMod_rwc (s : State) (m : BitVec 3) :
    (s.applyAddrMod m).rwc = Config.addrModEffect m s.rwc := by
  simpa [State.rwc, State.applyAddrMod] using setRwc_getD s.thread s.tensix.rwcs (Config.addrModEffect m s.rwc) s.thread

/-! ## One lane of an update -/

@[simp] theorem State.mapLanes_lane (s : State) (f : LaneIx → Lane → Lane) (l : LaneIx) :
    (s.mapLanes f).lane l = f l (s.lane l) := by
  simp [State.mapLanes, State.lane]

@[simp] theorem State.writeLanesIf_lane (s : State) (en : LaneIx → Bool) (dst : LaneIx → Reg) (val : LaneIx → Word)
    (l : LaneIx) : (s.writeLanesIf en dst val).lane l =
      if en l then (s.lane l).write (dst l) (val l) else s.lane l := by
  simp [State.writeLanesIf]

@[simp] theorem State.writeLanes_lane (s : State) (dst : LaneIx → Reg) (val : LaneIx → Word) (l : LaneIx) :
    (s.writeLanes dst val).lane l = if laneEnabled s l then (s.lane l).write (dst l) (val l) else s.lane l := by
  simp [State.writeLanes]

@[simp] theorem State.setFlags_lane (s : State) (flag : LaneIx → Bool) (l : LaneIx) :
    (s.setFlags flag).lane l =
      if laneEnabled s l then { s.lane l with laneFlag := flag l } else s.lane l := by
  simp [State.setFlags, Config.flagsUpdateWhenDisabled]

@[simp] theorem State.setPrng_lane (s : State) (prng : LaneIx → Word) (l : LaneIx) :
    (s.setPrng prng).lane l = if laneEnabled s l then { s.lane l with prng := prng l } else s.lane l := by
  simp [State.setPrng]

@[simp] theorem State.retire_lane (s : State) (p : List Reg) (l : LaneIx) : (s.retire p).lane l = s.lane l := rfl
@[simp] theorem State.requireNop_lane (s : State) (b : Bool) (l : LaneIx) : (s.requireNop b).lane l = s.lane l := rfl
@[simp] theorem State.applyAddrMod_lane (s : State) (m : BitVec 3) (l : LaneIx) :
    (s.applyAddrMod m).lane l = s.lane l := rfl
@[simp] theorem State.withDest_lane (s : State) (m : Memory) (l : LaneIx) :
    ({ s with dest := m } : State).lane l = s.lane l := rfl
@[simp] theorem State.retire_lreg (s : State) (p : List Reg) (r : Reg) (l : LaneIx) :
    (s.retire p).lreg r l = s.lreg r l := rfl
@[simp] theorem State.requireNop_lreg (s : State) (b : Bool) (r : Reg) (l : LaneIx) :
    (s.requireNop b).lreg r l = s.lreg r l := rfl
@[simp] theorem State.applyAddrMod_lreg (s : State) (m : BitVec 3) (r : Reg) (l : LaneIx) :
    (s.applyAddrMod m).lreg r l = s.lreg r l := rfl
@[simp] theorem State.withDest_lreg (s : State) (m : Memory) (r : Reg) (l : LaneIx) :
    ({ s with dest := m } : State).lreg r l = s.lreg r l := rfl

/-! ## Lane.write -/

@[simp] theorem Lane.write_prg (lane : Lane) (i : Reg) (v : Word) : (lane.write i v).prg = lane.prg := by
  unfold Lane.write; split <;> rfl
@[simp] theorem Lane.write_r16 (lane : Lane) (i : Reg) (v : Word) : (lane.write i v).r16 = lane.r16 := by
  unfold Lane.write; split <;> rfl
@[simp] theorem Lane.write_laneFlag (lane : Lane) (i : Reg) (v : Word) : (lane.write i v).laneFlag = lane.laneFlag := by
  unfold Lane.write; split <;> rfl
@[simp] theorem Lane.write_useLaneFlags (lane : Lane) (i : Reg) (v : Word) : (lane.write i v).useLaneFlags = lane.useLaneFlags := by
  unfold Lane.write; split <;> rfl
@[simp] theorem Lane.write_flagStack (lane : Lane) (i : Reg) (v : Word) : (lane.write i v).flagStack = lane.flagStack := by
  unfold Lane.write; split <;> rfl
@[simp] theorem Lane.write_laneConfig (lane : Lane) (i : Reg) (v : Word) : (lane.write i v).laneConfig = lane.laneConfig := by
  unfold Lane.write; split <;> rfl
@[simp] theorem Lane.write_lmc (lane : Lane) (i : Reg) (v : Word) : (lane.write i v).lmc = lane.lmc := by
  unfold Lane.write; split <;> rfl
@[simp] theorem Lane.write_prng (lane : Lane) (i : Reg) (v : Word) : (lane.write i v).prng = lane.prng := by
  unfold Lane.write; split <;> rfl

/-! ## Delivery and placing a word -/

@[simp] theorem State.deliver_lane (s : State) (d : Delivery) (l : LaneIx) : (s.deliver d).lane l = s.lane l := by
  unfold State.deliver; split <;> rfl

@[simp] theorem State.deliver_lanes (s : State) (d : Delivery) : (s.deliver d).lanes = s.lanes := by
  unfold State.deliver; split <;> rfl
@[simp] theorem State.deliver_dest (s : State) (d : Delivery) : (s.deliver d).dest = s.dest := by
  unfold State.deliver; split <;> rfl
@[simp] theorem State.deliver_program (s : State) (d : Delivery) : (s.deliver d).program = s.program := by
  unfold State.deliver; split <;> rfl
@[simp] theorem State.deliver_thread (s : State) (d : Delivery) : (s.deliver d).thread = s.thread := by
  unfold State.deliver; split <;> rfl
@[simp] theorem State.deliver_overlay (s : State) (d : Delivery) : (s.deliver d).overlay = s.overlay := by
  unfold State.deliver; split <;> rfl
@[simp] theorem State.deliver_pos (s : State) (d : Delivery) : (s.deliver d).pos = s.pos := by
  unfold State.deliver; split <;> rfl
@[simp] theorem State.deliver_pending (s : State) (d : Delivery) : (s.deliver d).pending = s.pending := by
  unfold State.deliver; split <;> rfl
@[simp] theorem State.deliver_nopRequired (s : State) (d : Delivery) : (s.deliver d).nopRequired = s.nopRequired := by
  unfold State.deliver; split <;> rfl
@[simp] theorem State.withFetchWord_lanes (s : State) (n w : Nat) : (s.withFetchWord n w).lanes = s.lanes := rfl
@[simp] theorem State.withFetchWord_dest (s : State) (n w : Nat) : (s.withFetchWord n w).dest = s.dest := rfl
@[simp] theorem State.withFetchWord_tensix (s : State) (n w : Nat) : (s.withFetchWord n w).tensix = s.tensix := rfl
@[simp] theorem State.withFetchWord_thread (s : State) (n w : Nat) : (s.withFetchWord n w).thread = s.thread := rfl
@[simp] theorem State.withFetchWord_overlay (s : State) (n w : Nat) : (s.withFetchWord n w).overlay = s.overlay := rfl
@[simp] theorem State.withFetchWord_pos (s : State) (n w : Nat) : (s.withFetchWord n w).pos = s.pos := rfl
@[simp] theorem State.withFetchWord_pending (s : State) (n w : Nat) : (s.withFetchWord n w).pending = s.pending := rfl
@[simp] theorem State.withFetchWord_nopRequired (s : State) (n w : Nat) : (s.withFetchWord n w).nopRequired = s.nopRequired := rfl

end Sys2Proof.Machine
end

