-- ==== Sys2Proof/Laws/Ops.lean ====
section
/-! SUPPORT. What each shared operation can do, said once. -/

namespace Sys2Proof.Machine

/-! ## Registers -/

/-- A constant index reads its constant, whatever the lane holds. -/
theorem Lane.lreg_const (lane : Lane) (l : LaneIx) :
    lane.lreg l 8 = 0x3F566189#32 ∧ lane.lreg l 9 = 0#32 ∧ lane.lreg l 10 = 0x3F800000#32 ∧
      lane.lreg l 15 = BitVec.ofNat 32 (2 * l.val) := ⟨rfl, rfl, rfl, rfl⟩

/-- The general registers are the indices below 8. -/
@[simp] theorem isGpr_eq (r : Reg) : isGpr r = decide (r < 8#4) := rfl

/-- The registers that a set of general registers is drawn from. -/
theorem regSet_eq (p : Reg → Bool) : regSet p = ([0, 1, 2, 3, 4, 5, 6, 7] : List Reg).filter p := rfl

/-- A general register reads `gpr`. -/
theorem Lane.lreg_gpr (lane : Lane) (l : LaneIx) {i : Reg} (h : i.toNat < 8) :
    lane.lreg l i = lane.gpr[i.toNat] := by
  simp [Lane.lreg, h]

/-- Reading back what `WriteLReg` wrote. -/
theorem Lane.lreg_write_same (lane : Lane) (l : LaneIx) {i : Reg} (v : Word) (h : i < 8#4) :
    (lane.write i v).lreg l i = v := by
  have h' : i.toNat < 8 := by simpa [BitVec.lt_def] using h
  simp [Lane.lreg_gpr _ _ h', Lane.write, h']

/-- A write to one register leaves every other register alone. -/
theorem Lane.lreg_write_other (lane : Lane) (l : LaneIx) {i j : Reg} (v : Word) (h : j ≠ i) :
    (lane.write i v).lreg l j = lane.lreg l j := by
  have hn : i.toNat ≠ j.toNat := fun e => h (BitVec.eq_of_toNat_eq e.symm)
  unfold Lane.write
  split
  · unfold Lane.lreg
    split
    · simp [hn]
    · rfl
  · rfl

/-- A write to index 8 to 15 does nothing (R16). -/
theorem Lane.write_high (lane : Lane) {i : Reg} (v : Word) (h : ¬i < 8#4) : lane.write i v = lane := by
  have h' : ¬i.toNat < 8 := by simpa [BitVec.lt_def] using h
  simp [Lane.write, h']

/-- A lane with another flag, PRNG state or stack reads its registers alike. -/
@[simp] theorem Lane.lreg_laneFlag (lane : Lane) (b : Bool) (l : LaneIx) (i : Reg) :
    ({ lane with laneFlag := b } : Lane).lreg l i = lane.lreg l i := rfl
@[simp] theorem Lane.lreg_prng (lane : Lane) (w : Word) (l : LaneIx) (i : Reg) :
    ({ lane with prng := w } : Lane).lreg l i = lane.lreg l i := rfl
@[simp] theorem Lane.lreg_flagStack (lane : Lane) (k : List FlagEntry) (l : LaneIx) (i : Reg) :
    ({ lane with flagStack := k } : Lane).lreg l i = lane.lreg l i := rfl

/-- `LReg` after a masked write (R16, R24): the destination where the lane is picked, everything else as before. -/
theorem State.lreg_writeLanesIf (s : State) (en : LaneIx → Bool) (dst : LaneIx → Reg) (val : LaneIx → Word) (r : Reg)
    (l : LaneIx) : (s.writeLanesIf en dst val).lreg r l =
      if en l = true ∧ r = dst l ∧ dst l < 8#4 then val l else s.lreg r l := by
  simp only [State.lreg, State.writeLanesIf_lane]
  by_cases he : en l = true
  · by_cases hr : r = dst l
    · subst hr
      by_cases hd : dst l < 8#4
      · simp [he, hd, Lane.lreg_write_same]
      · simp [he, hd, Lane.write_high]
    · simp [he, hr, Lane.lreg_write_other]
  · simp [he]

theorem State.lreg_writeLanes (s : State) (dst : LaneIx → Reg) (val : LaneIx → Word) (r : Reg) (l : LaneIx) :
    (s.writeLanes dst val).lreg r l =
      if laneEnabled s l = true ∧ r = dst l ∧ dst l < 8#4 then val l else s.lreg r l :=
  s.lreg_writeLanesIf _ dst val r l

@[simp] theorem State.lreg_setFlags (s : State) (flag : LaneIx → Bool) (r : Reg) (l : LaneIx) :
    (s.setFlags flag).lreg r l = s.lreg r l := by
  simp only [State.lreg, State.setFlags_lane]; split <;> rfl

@[simp] theorem State.lreg_setPrng (s : State) (prng : LaneIx → Word) (r : Reg) (l : LaneIx) :
    (s.setPrng prng).lreg r l = s.lreg r l := by
  simp only [State.lreg, State.setPrng_lane]; split <;> rfl

/-! ## Lanes of a row -/

/-- The lane that `ror1` reads, in numerals. -/
theorem ror1_eq (v : LaneIx → Word) (l : LaneIx) : ror1 v l = v ⟨l.val / 8 * 8 + (l.val + 7) % 8, by omega⟩ := rfl

/-- The lane that `up8` reads, in numerals. -/
theorem up8_eq (v : LaneIx → Word) (l : LaneIx) :
    up8 v l = if h : l.val < 24 then v ⟨l.val + 8, by omega⟩ else 0#32 := by
  have : (l.val + Config.gridCols < Config.nLanes) = (l.val < 24) := by
    simp only [Config.gridCols, Config.nLanes]; exact propext (by omega)
  simp only [up8, this, Config.gridCols]

/-! ## Lane enable looks at the flags and `LaneConfig` alone -/

/-- Two states that agree on a lane's flags and on `LaneConfig` of its column enable it alike. -/
theorem laneEnabled_congr {s t : State} {l : LaneIx}
    (hc : (t.lane (columnLane l)).laneConfig = (s.lane (columnLane l)).laneConfig)
    (hu : (t.lane l).useLaneFlags = (s.lane l).useLaneFlags) (hf : (t.lane l).laneFlag = (s.lane l).laneFlag) :
    laneEnabled t l = laneEnabled s l := by
  simp [laneEnabled, hc, hu, hf]

@[simp] theorem laneEnabled_writeLanesIf (s : State) (en : LaneIx → Bool) (dst : LaneIx → Reg)
    (val : LaneIx → Word) (l : LaneIx) : laneEnabled (s.writeLanesIf en dst val) l = laneEnabled s l := by
  refine laneEnabled_congr ?_ ?_ ?_ <;> simp only [State.writeLanesIf_lane] <;> split <;> simp

@[simp] theorem laneEnabled_writeLanes (s : State) (dst : LaneIx → Reg) (val : LaneIx → Word) (l : LaneIx) :
    laneEnabled (s.writeLanes dst val) l = laneEnabled s l := laneEnabled_writeLanesIf ..

@[simp] theorem laneEnabled_retire (s : State) (p : List Reg) (l : LaneIx) :
    laneEnabled (s.retire p) l = laneEnabled s l := rfl

/-! ## How an instruction ends -/

/-- An admitted instruction that completes is of an admitted form. -/
theorem admitted_next {i : Instr} {k : Result} {t : State} :
    admitted i k = .next t ↔ formError i = none ∧ k = .next t := by
  unfold admitted; split <;> simp_all

theorem refuseIf_next {b : Bool} {r : Refusal} {k : Result} {t : State} :
    refuseIf b r k = .next t ↔ b = false ∧ k = .next t := by
  unfold refuseIf; cases b <;> simp

theorem issue_next {s : State} {reads : List Reg} {k : Result} {t : State} :
    issue s reads k = .next t ↔ (s.nopRequired = false ∧ ∀ r ∈ reads, r ∉ s.pending) ∧ k = .next t := by
  unfold issue
  by_cases h : s.nopRequired <;> simp [h]
  split <;> simp_all

theorem firstLane_none {p : LaneIx → Bool} : firstLane p = none ↔ ∀ l, p l = false := by
  simp [firstLane]

theorem faultIf_next {bad : LaneIx → Bool} {f : Nat → Fault} {k : Result} {t : State} :
    faultIf bad f k = .next t ↔ (∀ l, bad l = false) ∧ k = .next t := by
  unfold faultIf
  cases h : firstLane bad with
  | none => simp [firstLane_none.1 h]
  | some l =>
    have hl : bad l = true := List.find?_some h
    simp only [reduceCtorEq, false_iff, not_and]
    intro hb; simp [hb l] at hl

/-- What a lanewise instruction can do. -/
theorem lanewiseTo_next {i : Instr} {reads : List Reg} {s : State} {dst : LaneIx → Reg} {val : LaneIx → Word}
    {p : List Reg} {t : State} : lanewiseTo i reads s dst val p = .next t ↔
      formError i = none ∧ (s.nopRequired = false ∧ ∀ r ∈ reads, r ∉ s.pending) ∧
        (s.writeLanes dst val).retire p = t := by
  simp [lanewiseTo, admitted_next, issue_next]

/-- What a lanewise instruction with flags can do. -/
theorem lanewiseFlag_next {i : Instr} {reads : List Reg} {s : State} {vd : Reg} {val : LaneIx → Word} {sets : Bool}
    {flag : LaneIx → Bool} {t : State} : lanewiseFlag i reads s vd val sets flag = .next t ↔
      formError i = none ∧ (s.nopRequired = false ∧ ∀ r ∈ reads, r ∉ s.pending) ∧
        (if sets then (s.writeLanes (fun _ => vd) val).setFlags flag else s.writeLanes (fun _ => vd) val).retire [] = t := by
  simp [lanewiseFlag, admitted_next, issue_next]

end Sys2Proof.Machine
end

