-- ==== Sys2Proof/Laws/Overlay.lean ====
section
/-! SUPPORT. Overlays of the two views of Dest that keep the laws of `LawfulOverlay`; what SFPSTORE leaves in Dest under
every such overlay, and that it keeps the canonical form. -/

namespace Sys2Proof.Machine

/-- The candidate that `20_memory.md` R41 names keeps the laws. -/
theorem lawfulOverlay_nil : LawfulOverlay [] := by
  constructor <;>
    simp only [Overlay.halfKeys_nil, cellKey, Config.dst32Rows, Config.dstRows, Config.dstCols] <;> intros <;> omega

/-- Exchanging the two halves of one 32-bit cell keeps the laws. -/
theorem lawfulOverlay_swap {row col : Nat} (hr : row < Config.dst32Rows) (hc : col < Config.dstCols) :
    LawfulOverlay [((row, col), ⟨(row + Config.dst32Rows, col), (row, col)⟩)] := by
  generalize ho : [((row, col), CellPair.mk (row + Config.dst32Rows, col) (row, col))] = o
  simp only [Config.dst32Rows, Config.dstCols] at hr hc
  have hk : ∀ r c, Overlay.halfKeys o r c =
      if r = row ∧ c = col then ((row + 512) * 16 + col, row * 16 + col) else (r * 16 + c, r * 16 + c + 8192) := by
    intro r c
    subst ho
    by_cases h : r = row ∧ c = col
    · obtain ⟨rfl, rfl⟩ := h
      simp [Overlay.halfKeys, Overlay.pair, cellKey, Config.dst32Rows, Config.dstCols]
    · rw [if_neg h, Overlay.halfKeys_of_lookup_none]
      · simp [cellKey, Config.dst32Rows, Config.dstCols]
      · simp [List.lookup_cons, beq_eq_false_iff_ne.2 fun e => h (Prod.mk.injEq .. ▸ e)]
  constructor <;> simp only [hk, Config.dst32Rows, Config.dstRows, Config.dstCols] <;> intros <;> split_ifs at * <;>
    simp only [] at * <;> omega

/-- What one lane stores keeps the canonical form, if a 32-bit access lies below row 512. -/
theorem wf_storeLane {o : Overlay} {m : Memory} {mode : Mode} {row col : Nat} (w : Word) (free : Half)
    (ho : LawfulOverlay o) (hm : m.wf) (hr : row < Config.dstRows) (hc : col < Config.dstCols)
    (h32 : stores32 mode = true → row < Config.dst32Rows) : (storeLane o m mode row col w free).wf := by
  unfold storeLane
  split
  · next h => exact Memory.wf_write32 _ hm (ho.inside _ _ (h32 h) hc)
  · refine Memory.wf_write _ hm ?_
    simp only [cellKey, Config.dstRows, Config.dstCols] at *; omega

/-- What SFPSTORE leaves in Dest is in the canonical form. -/
theorem wf_storeLanes {s : State} {mode : Mode} {imm10 : BitVec 10} (vd : Reg) (ho : LawfulOverlay s.overlay)
    (hm : s.dest.wf) (h32 : ∀ l, laneEnabled s l = true → stores32 mode = true →
      destRow (destAddr s imm10) l < Config.dst32Rows) : (storeLanes s mode (destAddr s imm10) vd).wf := by
  unfold storeLanes
  generalize List.finRange Config.nLanes = ls
  generalize s.dest = m at hm
  induction ls generalizing m with
  | nil => exact hm
  | cons l ls ih =>
    refine ih _ ?_
    simp only []
    split
    · next h => exact wf_storeLane _ _ ho hm (destRow_lt s imm10 l) (destCol_lt _ _ l) (h32 l h)
    · exact hm

/-! ## What SFPSTORE leaves in Dest -/

/-- A cell that no lane of a fold changes reads as before. -/
theorem read_foldl_other {f : Memory → LaneIx → Memory} {k : Nat} {ls : List LaneIx} (m : Memory)
    (h : ∀ l ∈ ls, ∀ m, (f m l).read k = m.read k) : (ls.foldl f m).read k = m.read k := by
  induction ls generalizing m with
  | nil => rfl
  | cons l ls ih =>
    rw [List.foldl_cons, ih _ fun j hj => h j (List.mem_cons_of_mem _ hj), h l List.mem_cons_self]

/-- A cell that one lane of a fold writes, and no other changes, holds what that lane wrote. -/
theorem read_foldl_at {f : Memory → LaneIx → Memory} {k : Nat} {v : Half} {ls : List LaneIx} {l : LaneIx} (m : Memory)
    (hl : l ∈ ls) (h : ∀ m, (f m l).read k = some v) (ho : ∀ j, j ≠ l → ∀ m, (f m j).read k = m.read k) :
    (ls.foldl f m).read k = some v := by
  induction ls generalizing m with
  | nil => cases hl
  | cons j ls ih =>
    rw [List.foldl_cons]
    by_cases hi : l ∈ ls
    · exact ih _ hi
    · obtain rfl : l = j := (List.mem_cons.1 hl).resolve_right hi
      rw [read_foldl_other _ fun i hm => ho i fun e => hi (e ▸ hm), h]

/-- The cells of two lanes of a store differ, by row or by column. -/
theorem storeCell_ne {s : State} {imm10 : BitVec 10} {j l : LaneIx} (h : j ≠ l) :
    ¬(destRow (destAddr s imm10) j = destRow (destAddr s imm10) l ∧
      destCol (destAddr s imm10) false j = destCol (destAddr s imm10) false l) := by
  have : j.val ≠ l.val := fun e => h (Fin.ext e)
  simp only [destRow, destCol, laneRow, Config.gridCols]; omega

/-- SFPSTORE in a 16-bit mode: the cell of every enabled lane, and every other cell. -/
theorem read_storeLanes16 {s : State} {mode : Mode} {imm10 : BitVec 10} {vd : Reg} (hm : stores32 mode = false) :
    (∀ l, laneEnabled s l = true → (storeLanes s mode (destAddr s imm10) vd).read (storeKey s imm10 l) =
      some (storeConv16 mode (s.lreg vd l) (Config.drawHalf s.pos l.val))) ∧
    ∀ k, (∀ l, laneEnabled s l = true → k ≠ storeKey s imm10 l) →
      (storeLanes s mode (destAddr s imm10) vd).read k = s.dest.read k := by
  have hs : ∀ m l w free, storeLane s.overlay m mode (destRow (destAddr s imm10) l) (destCol (destAddr s imm10) false l) w
      free = m.write (storeKey s imm10 l) (storeConv16 mode w free) := by
    intros; simp only [storeLane, hm, Bool.false_eq_true, if_false]; rfl
  refine ⟨fun l hl => read_foldl_at _ (List.mem_finRange l) (fun m => ?_) fun j hj m => ?_,
    fun k hk => read_foldl_other _ fun l _ m => ?_⟩
  · simp only [hl, if_true, hs, Memory.read_write_same]
  · simp only [hs]; split
    · refine Memory.read_write_other _ _ fun e => storeCell_ne (s := s) (imm10 := imm10) hj ?_
      have h1 := destCol_lt (destAddr s imm10) false j
      have h2 := destCol_lt (destAddr s imm10) false l
      simp only [storeKey, cellKey, Config.dstCols] at e h1 h2; omega
    · rfl
  · simp only [hs]; split
    · next hl => exact Memory.read_write_other _ _ (hk l hl)
    · rfl

/-- SFPSTORE in a 32-bit mode, below row 512: the two cells of every enabled lane, and every other cell. -/
theorem read_storeLanes32 {s : State} {mode : Mode} {imm10 : BitVec 10} {vd : Reg} (hm : stores32 mode = true)
    (ho : LawfulOverlay s.overlay) (hr : ∀ l, laneEnabled s l = true → destRow (destAddr s imm10) l < Config.dst32Rows) :
    let d := fun l : LaneIx => storeConv32 mode (s.lreg vd l) (Config.drawHalf s.pos l.val)
    (∀ l, laneEnabled s l = true →
      (storeLanes s mode (destAddr s imm10) vd).read (storeHalves s imm10 l).1 = some (hi16 (d l)) ∧
      (storeLanes s mode (destAddr s imm10) vd).read (storeHalves s imm10 l).2 = some (lo16 (d l))) ∧
    ∀ k, (∀ l, laneEnabled s l = true → k ≠ (storeHalves s imm10 l).1 ∧ k ≠ (storeHalves s imm10 l).2) →
      (storeLanes s mode (destAddr s imm10) vd).read k = s.dest.read k := by
  intro d
  have hc := destCol_lt (destAddr s imm10) false
  have hs : ∀ m l free, storeLane s.overlay m mode (destRow (destAddr s imm10) l) (destCol (destAddr s imm10) false l)
      (s.lreg vd l) free = (m.write (storeHalves s imm10 l).1 (hi16 (storeConv32 mode (s.lreg vd l) free))).write
        (storeHalves s imm10 l).2 (lo16 (storeConv32 mode (s.lreg vd l) free)) := by
    intros; simp only [storeLane, hm, if_true]; rfl
  have hne : ∀ j l, j ≠ l → laneEnabled s j = true → laneEnabled s l = true →
      (storeHalves s imm10 l).1 ≠ (storeHalves s imm10 j).1 ∧ (storeHalves s imm10 l).2 ≠ (storeHalves s imm10 j).2 :=
    fun j l hj h1 h2 => ⟨fun e => storeCell_ne hj (ho.cells _ _ _ _ (hr j h1) (hc j) (hr l h2) (hc l) (.inl e.symm)),
      fun e => storeCell_ne hj (ho.cells _ _ _ _ (hr j h1) (hc j) (hr l h2) (hc l) (.inr e.symm))⟩
  have hx : ∀ j l, laneEnabled s j = true → laneEnabled s l = true →
      (storeHalves s imm10 j).1 ≠ (storeHalves s imm10 l).2 :=
    fun j l h1 h2 => ho.halves _ _ _ _ (hr j h1) (hc j) (hr l h2) (hc l)
  refine ⟨fun l hl => ⟨read_foldl_at _ (List.mem_finRange l) (fun m => ?_) fun j hj m => ?_,
      read_foldl_at _ (List.mem_finRange l) (fun m => ?_) fun j hj m => ?_⟩,
    fun k hk => read_foldl_other _ fun l _ m => ?_⟩
  · simp only [hl, if_true, hs, Memory.read_write_other _ _ (hx l l hl hl), Memory.read_write_same]; rfl
  · simp only [hs]; split
    · next h => rw [Memory.read_write_other _ _ (hx l j hl h), Memory.read_write_other _ _ (hne j l hj h hl).1]
    · rfl
  · simp only [hl, if_true, hs, Memory.read_write_same]; rfl
  · simp only [hs]; split
    · next h => rw [Memory.read_write_other _ _ (hne j l hj h hl).2, Memory.read_write_other _ _ (hx j l h hl).symm]
    · rfl
  · simp only [hs]; split
    · next h => rw [Memory.read_write_other _ _ (hk l h).2, Memory.read_write_other _ _ (hk l h).1]
    · rfl

end Sys2Proof.Machine
end

