-- ==== Sys2Proof/Laws/PerInstr.lean ====
section
/-! SUPPORT. The per-instruction family OpcodeByte: bits 31:24 of an instruction's word are its opcode byte. -/

namespace Sys2Proof.Laws.OpcodeByte

/-- Bits 31:24 of the word are the opcode byte (`30_encoding.md` R74). -/
def Statement (i : Instr) : Prop := (encode i).extractLsb' 24 8 = opcode i

theorem sfpload (vd : Reg) (mod0 : Mode) (addrMod : BitVec 3) (imm10 : BitVec 10) : Statement (.sfpload vd mod0 addrMod imm10) := by
  unfold Statement encode opcode
  repeat rw [extract_append_high _ _ _ _ (by decide)]
  rfl
theorem sfploadi (vd : Reg) (mod0 : Mode) (imm16 : BitVec 16) : Statement (.sfploadi vd mod0 imm16) := by
  unfold Statement encode opcode
  repeat rw [extract_append_high _ _ _ _ (by decide)]
  rfl
theorem sfpstore (vd : Reg) (mod0 : Mode) (addrMod : BitVec 3) (imm10 : BitVec 10) : Statement (.sfpstore vd mod0 addrMod imm10) := by
  unfold Statement encode opcode
  repeat rw [extract_append_high _ _ _ _ (by decide)]
  rfl
theorem sfpmuli (imm16 : BitVec 16) (vd : Reg) (mod1 : Mode) : Statement (.sfpmuli imm16 vd mod1) := by
  unfold Statement encode opcode
  repeat rw [extract_append_high _ _ _ _ (by decide)]
  rfl
theorem sfpaddi (imm16 : BitVec 16) (vd : Reg) (mod1 : Mode) : Statement (.sfpaddi imm16 vd mod1) := by
  unfold Statement encode opcode
  repeat rw [extract_append_high _ _ _ _ (by decide)]
  rfl
theorem sfpdivp2 (imm8 : BitVec 8) (vc : Reg) (vd : Reg) (mod1 : Mode) : Statement (.sfpdivp2 imm8 vc vd mod1) := by
  unfold Statement encode opcode
  repeat rw [extract_append_high _ _ _ _ (by decide)]
  rfl
theorem sfpexexp (vc : Reg) (vd : Reg) (mod1 : Mode) : Statement (.sfpexexp vc vd mod1) := by
  unfold Statement encode opcode
  repeat rw [extract_append_high _ _ _ _ (by decide)]
  rfl
theorem sfpexman (vc : Reg) (vd : Reg) (mod1 : Mode) : Statement (.sfpexman vc vd mod1) := by
  unfold Statement encode opcode
  repeat rw [extract_append_high _ _ _ _ (by decide)]
  rfl
theorem sfpiadd (imm12 : BitVec 12) (vc : Reg) (vd : Reg) (mod1 : Mode) : Statement (.sfpiadd imm12 vc vd mod1) := by
  unfold Statement encode opcode
  repeat rw [extract_append_high _ _ _ _ (by decide)]
  rfl
theorem sfpshft (imm12 : BitVec 12) (vc : Reg) (vd : Reg) (mod1 : Mode) : Statement (.sfpshft imm12 vc vd mod1) := by
  unfold Statement encode opcode
  repeat rw [extract_append_high _ _ _ _ (by decide)]
  rfl
theorem sfpsetcc (imm1 : BitVec 1) (vc : Reg) (vd : Reg) (mod1 : Mode) : Statement (.sfpsetcc imm1 vc vd mod1) := by
  unfold Statement encode opcode
  repeat rw [extract_append_high _ _ _ _ (by decide)]
  rfl
theorem sfpmov (vc : Reg) (vd : Reg) (mod1 : Mode) : Statement (.sfpmov vc vd mod1) := by
  unfold Statement encode opcode
  repeat rw [extract_append_high _ _ _ _ (by decide)]
  rfl
theorem sfpabs (vc : Reg) (vd : Reg) (mod1 : Mode) : Statement (.sfpabs vc vd mod1) := by
  unfold Statement encode opcode
  repeat rw [extract_append_high _ _ _ _ (by decide)]
  rfl
theorem sfpand (vb : Reg) (vc : Reg) (vd : Reg) (mod1 : Mode) : Statement (.sfpand vb vc vd mod1) := by
  unfold Statement encode opcode
  repeat rw [extract_append_high _ _ _ _ (by decide)]
  rfl
theorem sfpor (vb : Reg) (vc : Reg) (vd : Reg) (mod1 : Mode) : Statement (.sfpor vb vc vd mod1) := by
  unfold Statement encode opcode
  repeat rw [extract_append_high _ _ _ _ (by decide)]
  rfl
theorem sfpnot (vc : Reg) (vd : Reg) (mod1 : Mode) : Statement (.sfpnot vc vd mod1) := by
  unfold Statement encode opcode
  repeat rw [extract_append_high _ _ _ _ (by decide)]
  rfl
theorem sfplz (vc : Reg) (vd : Reg) (mod1 : Mode) : Statement (.sfplz vc vd mod1) := by
  unfold Statement encode opcode
  repeat rw [extract_append_high _ _ _ _ (by decide)]
  rfl
theorem sfpsetexp (imm8 : BitVec 8) (vc : Reg) (vd : Reg) (mod1 : Mode) : Statement (.sfpsetexp imm8 vc vd mod1) := by
  unfold Statement encode opcode
  repeat rw [extract_append_high _ _ _ _ (by decide)]
  rfl
theorem sfpsetman (imm12 : BitVec 12) (vc : Reg) (vd : Reg) (mod1 : Mode) : Statement (.sfpsetman imm12 vc vd mod1) := by
  unfold Statement encode opcode
  repeat rw [extract_append_high _ _ _ _ (by decide)]
  rfl
theorem sfpmad (va : Reg) (vb : Reg) (vc : Reg) (vd : Reg) (mod1 : Mode) : Statement (.sfpmad va vb vc vd mod1) := by
  unfold Statement encode opcode
  repeat rw [extract_append_high _ _ _ _ (by decide)]
  rfl
theorem sfpadd (va : Reg) (vb : Reg) (vc : Reg) (vd : Reg) (mod1 : Mode) : Statement (.sfpadd va vb vc vd mod1) := by
  unfold Statement encode opcode
  repeat rw [extract_append_high _ _ _ _ (by decide)]
  rfl
theorem sfpmul (va : Reg) (vb : Reg) (vc : Reg) (vd : Reg) (mod1 : Mode) : Statement (.sfpmul va vb vc vd mod1) := by
  unfold Statement encode opcode
  repeat rw [extract_append_high _ _ _ _ (by decide)]
  rfl
theorem sfppushc (vd : Reg) (mod1 : Mode) : Statement (.sfppushc vd mod1) := by
  unfold Statement encode opcode
  repeat rw [extract_append_high _ _ _ _ (by decide)]
  rfl
theorem sfppopc (vd : Reg) (mod1 : Mode) : Statement (.sfppopc vd mod1) := by
  unfold Statement encode opcode
  repeat rw [extract_append_high _ _ _ _ (by decide)]
  rfl
theorem sfpsetsgn (imm1 : BitVec 1) (vc : Reg) (vd : Reg) (mod1 : Mode) : Statement (.sfpsetsgn imm1 vc vd mod1) := by
  unfold Statement encode opcode
  repeat rw [extract_append_high _ _ _ _ (by decide)]
  rfl
theorem sfpencc (imm2 : BitVec 2) (vd : Reg) (mod1 : Mode) : Statement (.sfpencc imm2 vd mod1) := by
  unfold Statement encode opcode
  repeat rw [extract_append_high _ _ _ _ (by decide)]
  rfl
theorem sfpcompc (vd : Reg) (mod1 : Mode) : Statement (.sfpcompc vd mod1) := by
  unfold Statement encode opcode
  repeat rw [extract_append_high _ _ _ _ (by decide)]
  rfl
theorem sfptransp (vc : Reg) (vd : Reg) (mod1 : Mode) : Statement (.sfptransp vc vd mod1) := by
  unfold Statement encode opcode
  repeat rw [extract_append_high _ _ _ _ (by decide)]
  rfl
theorem sfpxor (vc : Reg) (vd : Reg) (mod1 : Mode) : Statement (.sfpxor vc vd mod1) := by
  unfold Statement encode opcode
  repeat rw [extract_append_high _ _ _ _ (by decide)]
  rfl
theorem sfpstochrnd (roundingMode : BitVec 2) (imm5 : BitVec 5) (vb : Reg) (vc : Reg) (vd : Reg) (mod1 : BitVec 3) (useImm5 : BitVec 1) : Statement (.sfpstochrnd roundingMode imm5 vb vc vd mod1 useImm5) := by
  unfold Statement encode opcode
  repeat rw [extract_append_high _ _ _ _ (by decide)]
  rfl
theorem sfpnop : Statement (.sfpnop) := by
  unfold Statement encode opcode
  repeat rw [extract_append_high _ _ _ _ (by decide)]
  rfl
theorem sfpcast (vc : Reg) (vd : Reg) (mod1 : Mode) : Statement (.sfpcast vc vd mod1) := by
  unfold Statement encode opcode
  repeat rw [extract_append_high _ _ _ _ (by decide)]
  rfl
theorem sfpconfig (imm16 : BitVec 16) (vd : Reg) (mod1 : Mode) : Statement (.sfpconfig imm16 vd mod1) := by
  unfold Statement encode opcode
  repeat rw [extract_append_high _ _ _ _ (by decide)]
  rfl
theorem sfpswap (vc : Reg) (vd : Reg) (mod1 : Mode) : Statement (.sfpswap vc vd mod1) := by
  unfold Statement encode opcode
  repeat rw [extract_append_high _ _ _ _ (by decide)]
  rfl
theorem sfploadmacro (vd : Reg) (mod0 : Mode) (addrMod : BitVec 3) (imm10 : BitVec 10) : Statement (.sfploadmacro vd mod0 addrMod imm10) := by
  unfold Statement encode opcode
  repeat rw [extract_append_high _ _ _ _ (by decide)]
  rfl
theorem sfpshft2 (x : BitVec 12) (vc : Reg) (vd : Reg) (mod1 : Mode) : Statement (.sfpshft2 x vc vd mod1) := by
  unfold Statement encode opcode
  repeat rw [extract_append_high _ _ _ _ (by decide)]
  rfl
theorem sfplutfp32 (vd : Reg) (mod1 : Mode) : Statement (.sfplutfp32 vd mod1) := by
  unfold Statement encode opcode
  repeat rw [extract_append_high _ _ _ _ (by decide)]
  rfl
theorem sfple (vc : Reg) (vd : Reg) (mod1 : Mode) : Statement (.sfple vc vd mod1) := by
  unfold Statement encode opcode
  repeat rw [extract_append_high _ _ _ _ (by decide)]
  rfl
theorem sfpgt (vc : Reg) (vd : Reg) (mod1 : Mode) : Statement (.sfpgt vc vd mod1) := by
  unfold Statement encode opcode
  repeat rw [extract_append_high _ _ _ _ (by decide)]
  rfl
theorem sfpmul24 (va : Reg) (vb : Reg) (vc : Reg) (vd : Reg) (mod1 : Mode) : Statement (.sfpmul24 va vb vc vd mod1) := by
  unfold Statement encode opcode
  repeat rw [extract_append_high _ _ _ _ (by decide)]
  rfl
theorem sfparecip (vb : Reg) (vc : Reg) (vd : Reg) (mod1 : Mode) : Statement (.sfparecip vb vc vd mod1) := by
  unfold Statement encode opcode
  repeat rw [extract_append_high _ _ _ _ (by decide)]
  rfl

end Sys2Proof.Laws.OpcodeByte
end

