-- ==== Sys2Proof/Laws/Shapes.lean ====
section
/-! SUPPORT. What an instruction of one of the two lanewise shapes does, in the terms of `Safety.lean`. -/

namespace Sys2Proof.Machine

/-- An instruction whose meaning is `lanewiseTo` writes its destination in the enabled lanes and nothing else. -/
theorem laneResult_of_lanewiseTo {i : Instr} {s : State} {reads : List Reg} {dst dst' : LaneIx → Reg}
    {val val' : LaneIx → Word} {p p' : List Reg} (he : exec i s = lanewiseTo i reads s dst val p)
    (hf : formError i = none) (hd : dst' = dst) (hv : ∀ l, val' l = val l) (hp : p' = p) :
    LaneResult i s reads dst' val' p' := by
  subst hd hp
  intro hm
  refine ⟨(s.writeLanes dst' val).retire p', ?_, ?_⟩
  · rw [he, lanewiseTo_next]; exact ⟨hf, hm, rfl⟩
  · refine ⟨⟨?_, ?_, ?_, ?_, ?_, ?_, ?_, ?_, ?_, ?_⟩, ?_, ?_⟩
    · intro l r h; simp only [State.retire_lreg, State.lreg_writeLanes]; rw [if_neg h]
    all_goals try solve | (intro l; simp; split <;> simp)
    · intro k _; simp
    · simp [KeepsOutside]
    · intro l h1 h2; simp only [State.retire_lreg, State.lreg_writeLanes]; simp [h1, h2, hv]
    · simp [Advances]

/-- An instruction whose meaning is `lanewiseFlag` also sets `LaneFlags` in the enabled lanes where it says so. -/
theorem flagResult_of_lanewiseFlag {i : Instr} {s : State} {reads : List Reg} {vd : Reg} {val val' : LaneIx → Word}
    {sets : Bool} {flag : LaneIx → Bool} {P : Prop} {F : LaneIx → Prop}
    (he : exec i s = lanewiseFlag i reads s vd val sets flag) (hf : formError i = none) (hv : ∀ l, val' l = val l)
    (hs : sets = true ↔ P) (hF : ∀ l, flag l = true ↔ F l) : FlagResult i s reads vd val' P F := by
  intro hm
  refine ⟨(if sets then (s.writeLanes (fun _ => vd) val).setFlags flag
    else s.writeLanes (fun _ => vd) val).retire [], ?_, ?_⟩
  · rw [he, lanewiseFlag_next]; exact ⟨hf, hm, rfl⟩
  · by_cases h : sets = true
    all_goals simp only [h, if_true, if_false, Bool.false_eq_true, true_iff, false_iff] at hs ⊢
    all_goals refine ⟨?_, ?_, ?_, ?_, ?_, ?_, ?_, ⟨?_, ?_, ?_, ?_, ?_⟩, ?_⟩
    all_goals try solve | (intro l; simp)
    all_goals try solve | (intro l; simp; split <;> simp)
    all_goals try solve | simp [KeepsOutside, Advances]
    · intro l r h; simp only [State.retire_lreg, State.lreg_setFlags, State.lreg_writeLanes]; rw [if_neg (by simpa using h)]
    · intro l h1 h2; simp only [State.retire_lreg, State.lreg_setFlags, State.lreg_writeLanes]; simp [h1, h2, hv]
    · intro l h1 h2; simp [h1, hF]
    · intro l h1; simp; split <;> simp_all
    · intro l r h; simp only [State.retire_lreg, State.lreg_writeLanes]; rw [if_neg (by simpa using h)]
    · intro l h1 h2; simp only [State.retire_lreg, State.lreg_writeLanes]; simp [h1, h2, hv]
    · intro l h1 h2; exact absurd h2 hs

end Sys2Proof.Machine
end

