-- ==== Sys2Proof/Laws/Step.lean ====
section
/-! SUPPORT. What a step can do, said once, and when a stream is refused before it starts. -/

namespace Sys2Proof.Machine

/-- A word is not refused exactly if it is an instruction of an admitted form (R243). -/
theorem wordRefusal_none {w : BitVec 32} :
    wordRefusal Config.enc w = none ↔ ∃ i, decode w = .ok i ∧ i.wellFormed = true := by
  simp only [wordRefusal, Config.enc, Instr.wellFormed]
  cases decode w <;> simp

/-- A stream may start exactly if it is an admitted one. -/
theorem streamRefusal_none {p : List Delivery} : streamRefusal Config.enc p = none ↔ AdmittedStream p := by
  simp [streamRefusal, AdmittedStream, wordRefusal_none]

/-- What a step can do under any encoding: nothing at the end of the stream, else what the delivered instruction does. -/
theorem stepWith_next {enc : Encoding} {s t : State} (h : stepWith enc s = .next t) :
    (s.pos = 0 → streamRefusal enc s.program = none) ∧ (fetch s = none ∧ t = s ∨
      ∃ d i, fetch s = some d ∧ enc.decode d.word = .ok i ∧ exec i (s.deliver d) = .next t) := by
  simp only [stepWith] at h
  split at h
  · cases h
  · next hs =>
    refine ⟨fun h0 => by simpa [h0] using hs, ?_⟩
    cases hf : fetch s with
    | none => simp only [hf] at h; cases h; simp
    | some d =>
      simp only [hf] at h
      split at h
      · cases h
      · next i hd => exact .inr ⟨d, i, rfl, hd, h⟩

/-- What a step of this machine can do. -/
theorem step_next {s t : State} (h : step s = .next t) :
    (s.pos = 0 → AdmittedStream s.program) ∧ (fetch s = none ∧ t = s ∨
      ∃ d i, fetch s = some d ∧ decode d.word = .ok i ∧ exec i (s.deliver d) = .next t) :=
  (stepWith_next h).imp_left fun h h0 => streamRefusal_none.1 (h h0)

end Sys2Proof.Machine
end

