-- ==== Sys2Proof/Tests/Slice0.lean ====
section
/-! SUPPORT. Tests of the model and witnesses for the hypotheses of the statements. Expected results come from the
vectors of `95_test_vectors.md` (V, H) or are worked out by hand from the rule named. -/

namespace Sys2Proof.Tests

set_option Elab.async false

open Sys2Proof.Machine

/-! ## Helpers -/

/-- The instruction completes and `p` holds of the state it leaves. -/
def Gives (r : Result) (p : State → Bool) : Bool :=
  match r with
  | .next t => p t
  | _ => false

/-- The instruction stops with the fault `f`. -/
def Faults (r : Result) (f : Fault) : Bool :=
  match r with
  | .fault g => g == f
  | _ => false

/-- The instruction is refused with `e`. -/
def Refused (r : Result) (e : Refusal) : Bool :=
  match r with
  | .refused g => g == e
  | _ => false

/-- The state a completed step leaves. -/
def after (r : Result) : State :=
  match r with
  | .next t => t
  | _ => State.reset

theorem next_of_gives {r : Result} {p : State → Bool} (h : Gives r p = true) : r = .next (after r) := by
  cases r <;> simp_all [Gives, after]

theorem exists_next {r : Result} (h : Gives r (fun _ => true) = true) : ∃ t, r = .next t :=
  ⟨_, next_of_gives h⟩

/-- The reset state with every lane as given. -/
def withLanes (f : LaneIx → Lane) : State := { State.reset with lanes := Vector.ofFn f }

/-- Lanes that hold the registers `g` in 0 to 3 (zero in 4 to 7), the switch `u`, the flag `f` and a stack. -/
def lane (g : Word × Word × Word × Word) (u f : Bool) (stack : List FlagEntry) : Lane :=
  { Lane.reset with
    gpr := #v[g.1, g.2.1, g.2.2.1, g.2.2.2, 0, 0, 0, 0], useLaneFlags := u, laneFlag := f, flagStack := stack }

/-- All lanes with registers 0 to 3 as given, predication off. -/
def regs (a b c d : Word) : State := withLanes fun _ => lane (a, b, c, d) false false []

/-- All lanes with registers 0 and 1 as given, predication on, the flag and the stack as given. -/
def flags (a b : Word) (f : Bool) (stack : List FlagEntry) : State :=
  withLanes fun _ => lane (a, b, 0, 0) true f stack

/-- Predication on; the even lanes are enabled, the odd lanes are not. -/
def mixed : State := withLanes fun l => lane (5, 7, 0, 0) true (l.val % 2 == 0) []

/-- `LReg[0][l] = l`, `LReg[1][l] = 256 + l`, and so on, as in section 3 of the vectors. -/
def numbered : State :=
  withLanes fun l => { Lane.reset with gpr := Vector.ofFn fun r => BitVec.ofNat 32 (256 * r.val + l.val) }

/-- The cells of rows `4 * g` to `4 * g + 3`, even columns `e`, odd columns `o`. -/
def tile (g : Nat) (e o : Half) : Memory :=
  (List.range 64).map fun k => (64 * g + k, if k % 2 = 0 then e else o)

/-- A 32-bit tile in rows `4 * g` to `4 * g + 3`. -/
def tile32 (g : Nat) (d : Word) : Memory :=
  tile g (hi16 d) (hi16 d) ++ tile (128 + g) (lo16 d) (lo16 d)

/-- `LReg[r]` of lane `l` holds `w`. -/
def Holds (r : Reg) (l : LaneIx) (w : Word) (t : State) : Bool := t.lreg r l == w

/-! ## Words written out from the formats of `30_encoding.md` R74 decode to their instructions -/

theorem test_decode_load_store :
    decode 0b01110000_0011_0010_100_000_0000000101#32 = .ok (.sfpload 3 2 4 5) ∧
    decode 0b01110001_0111_1000_1011111011101111#32 = .ok (.sfploadi 7 8 0xBEEF) ∧
    decode 0b01110010_1001_1110_001_000_1000000011#32 = .ok (.sfpstore 9 14 1 515) ∧
    decode 0b10010011_0001_0010_011_000_0000000001#32 = .ok (.sfploadmacro 1 2 3 1) := by decide

theorem test_decode_mad :
    decode 0b10000100_0000_0000_1010_1001_0001_0000#32 = .ok (.sfpmad 0 10 9 1 0) ∧
    decode 0b10000101_0000_1010_0001_0010_0011_1000#32 = .ok (.sfpadd 10 1 2 3 8) ∧
    decode 0b10000110_0000_0001_0010_1001_0011_0010#32 = .ok (.sfpmul 1 2 9 3 2) ∧
    decode 0b10011000_0000_0001_0010_1001_0011_0101#32 = .ok (.sfpmul24 1 2 9 3 5) ∧
    decode 0b01110100_0011111100000000_0001_0000#32 = .ok (.sfpmuli 0x3F00 1 0) ∧
    decode 0b01110101_0100000000000001_0010_1010#32 = .ok (.sfpaddi 0x4001 2 10) ∧
    decode 0b10010101_0000000000000000_0001_0011#32 = .ok (.sfplutfp32 1 3) := by decide

theorem test_decode_fp_fields :
    decode 0b01110110_0000_00000011_0000_0001_0001#32 = .ok (.sfpdivp2 3 0 1 1) ∧
    decode 0b01110111_000000000000_0010_0001_1010#32 = .ok (.sfpexexp 2 1 10) ∧
    decode 0b01111000_000000000000_0010_0001_0001#32 = .ok (.sfpexman 2 1 1) ∧
    decode 0b10000010_0000_01111111_0001_0010_0001#32 = .ok (.sfpsetexp 127 1 2 1) ∧
    decode 0b10001001_00000000000_1_0011_0010_0001#32 = .ok (.sfpsetsgn 1 3 2 1) ∧
    decode 0b10000011_100000000001_0011_0010_0001#32 = .ok (.sfpsetman 0x801 3 2 1) ∧
    decode 0b01111101_000000000000_0010_0001_0001#32 = .ok (.sfpabs 2 1 1) := by decide

theorem test_decode_integer_logic :
    decode 0b01111001_111111111100_0001_0010_1010#32 = .ok (.sfpiadd 0xFFC 1 2 10) ∧
    decode 0b01111110_00000000_0101_0011_0010_0001#32 = .ok (.sfpand 5 3 2 1) ∧
    decode 0b01111111_00000000_0101_0011_0010_0001#32 = .ok (.sfpor 5 3 2 1) ∧
    decode 0b10001101_000000000000_0011_0010_0000#32 = .ok (.sfpxor 3 2 0) ∧
    decode 0b10000000_000000000000_0011_0010_0000#32 = .ok (.sfpnot 3 2 0) ∧
    decode 0b10000001_000000000000_0011_0010_1110#32 = .ok (.sfplz 3 2 14) ∧
    decode 0b01111010_100000000001_0011_0010_0101#32 = .ok (.sfpshft 0x801 3 2 5) ∧
    decode 0b10010100_000000010010_0011_0010_0110#32 = .ok (.sfpshft2 0x012 3 2 6) := by decide

theorem test_decode_compare_convert :
    decode 0b01111011_00000000000_1_0011_0010_0001#32 = .ok (.sfpsetcc 1 3 2 1) ∧
    decode 0b10010111_000000000000_0011_0010_1111#32 = .ok (.sfpgt 3 2 15) ∧
    decode 0b10010110_000000000000_0011_0010_0111#32 = .ok (.sfple 3 2 7) ∧
    decode 0b10010010_000000000000_0001_0010_1001#32 = .ok (.sfpswap 1 2 9) ∧
    decode 0b10010000_000000000000_0011_0010_0001#32 = .ok (.sfpcast 3 2 1) ∧
    decode 0b10001110_0_10_00101_0110_0111_0010_1_101#32 = .ok (.sfpstochrnd 2 5 6 7 2 5 1) ∧
    decode 0b10011001_00000000_0110_0111_0010_0001#32 = .ok (.sfparecip 6 7 2 1) := by decide

theorem test_decode_move_config_predication :
    decode 0b01111100_000000000000_1001_0001_1000#32 = .ok (.sfpmov 9 1 8) ∧
    decode 0b10010001_1010101111001101_1111_0001#32 = .ok (.sfpconfig 0xABCD 15 1) ∧
    decode 0b10001111_000000000000000000000000#32 = .ok .sfpnop ∧
    decode 0b10001100_000000000000_0001_0010_0011#32 = .ok (.sfptransp 1 2 3) ∧
    decode 0b10001010_0000000000_11_0000_0010_1010#32 = .ok (.sfpencc 3 2 10) ∧
    decode 0b10000111_000000000000_0000_0010_1101#32 = .ok (.sfppushc 2 13) ∧
    decode 0b10001000_000000000000_0000_0010_1101#32 = .ok (.sfppopc 2 13) ∧
    decode 0b10001011_000000000000_0000_0010_0000#32 = .ok (.sfpcompc 2 0) := by decide

/-- R75 (b), (e): a non-zero zero position, and opcode bytes just outside the list and in its hole. -/
theorem test_decode_refuses :
    decode 0x70000400#32 = .error (.nonzeroField "SFPLOAD") ∧ decode 0x8F000001#32 = .error (.nonzeroField "SFPNOP") ∧
    decode 0x8A000100#32 = .error (.nonzeroField "SFPENCC") ∧ decode 0x8E800000#32 = .error (.nonzeroField "SFPSTOCHRND") ∧
    decode 0x6F000000#32 = .error (.notSfpu 0x6F) ∧ decode 0x73000000#32 = .error (.notSfpu 0x73) ∧
    decode 0x9A000000#32 = .error (.notSfpu 0x9A) := by decide

/-! ## Ill-formed terms: each check of WellFormed refuses one, at the boundary of what it admits -/

theorem test_wellFormed_refuses_modes :
    formError (.sfploadi 0 3 0) = some (.reservedMode "SFPLOADI") ∧ formError (.sfpaddi 0 0 1) = some (.reservedMode "SFPADDI") ∧
    formError (.sfpmuli 0 0 4) = some (.reservedMode "SFPMULI") ∧ formError (.sfpdivp2 0 0 0 2) = some (.reservedMode "SFPDIVP2") ∧
    formError (.sfpexexp 0 0 4) = some (.reservedMode "SFPEXEXP") ∧ formError (.sfpexman 0 0 2) = some (.reservedMode "SFPEXMAN") ∧
    formError (.sfpshft 0 0 0 8) = some (.reservedMode "SFPSHFT") ∧ formError (.sfpmov 0 0 3) = some (.reservedMode "SFPMOV") ∧
    formError (.sfpabs 0 0 2) = some (.reservedMode "SFPABS") ∧ formError (.sfpand 0 0 0 2) = some (.reservedMode "SFPAND") ∧
    formError (.sfpor 0 0 0 2) = some (.reservedMode "SFPOR") ∧ formError (.sfpnot 0 0 1) = some (.reservedMode "SFPNOT") ∧
    formError (.sfplz 0 0 1) = some (.reservedMode "SFPLZ") ∧ formError (.sfpsetexp 0 0 0 3) = some (.reservedMode "SFPSETEXP") ∧
    formError (.sfpsetman 0 0 0 2) = some (.reservedMode "SFPSETMAN") ∧ formError (.sfpsetsgn 0 0 0 2) = some (.reservedMode "SFPSETSGN") ∧
    formError (.sfpencc 0 0 4) = some (.reservedMode "SFPENCC") ∧ formError (.sfpcompc 0 1) = some (.reservedMode "SFPCOMPC") ∧
    formError (.sfpxor 0 0 1) = some (.reservedMode "SFPXOR") ∧ formError (.sfpcast 0 0 4) = some (.reservedMode "SFPCAST") ∧
    formError (.sfpswap 0 0 10) = some (.reservedMode "SFPSWAP") ∧ formError (.sfpshft2 0 0 0 7) = some (.reservedMode "SFPSHFT2") ∧
    formError (.sfplutfp32 0 13) = some (.reservedMode "SFPLUTFP32") ∧ formError (.sfpmul24 0 0 9 0 2) = some (.reservedMode "SFPMUL24") ∧
    formError (.sfparecip 0 0 0 3) = some (.reservedMode "SFPARECIP") := by decide

theorem test_wellFormed_refuses_operands :
    formError (.sfpload 0 10 0 0) = some .int32AllAddressing ∧ formError (.sfpstore 0 11 0 0) = some .storeZeroWidth ∧
    formError (.sfpstore 12 4 0 0) = some .storeSource ∧ formError (.sfploadi 8 0 0) = some .loadiDestination ∧
    formError (.sfpmuli 0 0 2) = some .muliNegate ∧ formError (.sfpmul24 0 0 8 0 0) = some .mul24Addend ∧
    formError (.sfpshft2 0x010 0 0 5) = some .shft2Operand ∧ formError (.sfpsetcc 0 0 8 0) = some .unusedDestination ∧
    formError (.sfpencc 0 8 0) = some .unusedDestination ∧ formError (.sfppushc 8 0) = some .unusedDestination ∧
    formError (.sfppopc 8 0) = some .unusedDestination ∧ formError (.sfpcompc 8 0) = some .unusedDestination ∧
    formError (.sfpstochrnd 3 0 0 0 0 0 0) = some .roundingMode ∧ formError (.sfpstochrnd 0 1 0 0 0 3 0) = some .roundOperands ∧
    formError (.sfpstochrnd 0 0 0 0 0 6 1) = some .roundOperands ∧ formError (.sfpconfig 0 9 0) = some .configDestination ∧
    formError (.sfpconfig 0 10 0) = some .configDestination ∧ formError (.sfpconfig 0 11 8) = some .configLaneMask ∧
    formError (.sfpconfig 0 11 6) = some .configXor ∧ formError (.sfppushc 0 15) = some .pushPairOrder ∧
    formError (.sfptransp 0 0 0) = some .transpNotDescribed ∧ formError (.sfploadmacro 0 0 0 0) = some .loadMacroNotDescribed := by
  decide

theorem test_wellFormed_admits_the_neighbours :
    ([.sfpstore 11 4 0 0, .sfploadi 7 10 0, .sfpaddi 0 15 10, .sfpmuli 0 15 8, .sfpshft2 0xFFF 0 0 6, .sfpshft2 0x00F 0 0 5,
      .sfpstochrnd 2 31 0 0 0 5 1, .sfpconfig 0 15 5, .sfppushc 7 14, .sfplutfp32 0 15, .sfpswap 0 0 9, .sfpload 15 15 7 1023]
        : List Instr).all Instr.wellFormed = true := by decide

/-! ## Single instructions -/

theorem test_sfpload_bf16_odd_columns :
    Gives (exec (.sfpload 0 2 0 2) { State.reset with dest := tile 0 0x007F 0x0080 }) (Holds 0 0 0x40000000) := by
  decide +kernel -- V17

theorem test_sfpload_low_half_keeps_the_high :
    Gives (exec (.sfpload 0 14 0 0) { regs 0x12345678 0 0 0 with dest := tile 0 0xBEEF 0 }) (Holds 0 31 0x1234BEEF) := by
  decide +kernel -- V11

theorem test_sfpstore_bf16_places_each_lane :
    Gives (exec (.sfpstore 1 2 0 6)
        (withLanes fun l => lane (0, 0x3F800000 + BitVec.ofNat 32 (l.val * 65536), 0, 0) false false []))
      (fun t => t.dest.read (4 * 16 + 1) == some 0x007F && t.dest.read (5 * 16 + 11) == some 0x0D7F &&
        t.dest.read (7 * 16 + 15) == some 0x1F7F && t.dest.length == 32) := by decide +kernel -- V35

theorem test_sfpstore_int32_swaps_halves :
    Gives (exec (.sfpstore 1 9 0 0) (regs 0 0x12345678 0 0))
      (fun t => t.dest.read 0 == some 0x5678 && t.dest.read 8192 == some 0x1234) := by decide +kernel -- V33, log entry 11

/-- An overlay other than the candidate: the two halves of the 32-bit cell (508, 1) are exchanged. -/
def swapped : Overlay := [((508, 1), ⟨(508 + Config.dst32Rows, 1), (508, 1)⟩)]

theorem swapped_lawful : LawfulOverlay swapped := lawfulOverlay_swap (by decide) (by decide)

/-- R41: the overlay of the state says which cells a 32-bit cell is made of; SFPSTORE mode 9 in lanes 0 and 1. -/
theorem test_overlay_is_a_parameter :
    Gives (exec (.sfpstore 1 9 0 511) { regs 0 0x12345678 0 0 with overlay := swapped })
      (fun t => t.dest.read (1020 * 16 + 1) == some 0x5678 && t.dest.read (508 * 16 + 1) == some 0x1234 &&
        t.dest.read (508 * 16 + 3) == some 0x5678 && t.dest.read (1020 * 16 + 3) == some 0x1234) := by decide +kernel

theorem test_sfpmad_negates_both :
    Gives (exec (.sfpmad 0 1 2 3 3) (regs 0x40000000 0x40400000 0x3F800000 0))
      (fun t => Holds 3 0 0xC0E00000 t && t.pending == [3]) := by decide +kernel -- V48

theorem test_sfpmad_nan_and_denormal :
    Gives (exec (.sfpmad 0 10 9 2 0) (regs 0xFFC12345 0 0 0)) (Holds 2 0 0x7FC00000) ∧
    Gives (exec (.sfpmad 0 1 9 2 0) (regs 0x007FFFFF 0x7F000000 0 0)) (Holds 2 0 0) := by decide +kernel -- V53, V54

theorem test_sfpadd_ties_to_even :
    Gives (exec (.sfpadd 10 0 1 2 0) (regs 0x3F800000 0x33800000 0 0)) (Holds 2 0 0x3F800000) ∧
    Gives (exec (.sfpadd 10 0 1 2 0) (regs 0x3F800001 0x33800000 0 0)) (Holds 2 0 0x3F800002) := by
  decide +kernel -- V61, V62

theorem test_sfpmul_negative_zero :
    Gives (exec (.sfpmul 0 1 9 2 0) (regs 0x80000000 0x40400000 0 0)) (Holds 2 0 0) ∧
    Gives (exec (.sfpmul 0 1 9 2 2) (regs 0x80000000 0x40400000 0 0)) (Holds 2 0 0x80000000) := by
  decide +kernel -- V72, V73

theorem test_sfpaddi_sfpmuli :
    Gives (exec (.sfpaddi 0x4000 2 2) (regs 0 0 0x3F800000 0)) (Holds 2 0 0x3F800000) ∧
    Gives (exec (.sfpmuli 0x3F00 1 0) (regs 0 0x40800000 0 0)) (Holds 1 0 0x40000000) := by decide +kernel -- V75, V77

theorem test_sfplutfp32_keeps_the_sign :
    Gives (exec (.sfplutfp32 0 4)
        (withLanes fun _ => { Lane.reset with gpr := #v[0, 0x40000000, 0, 0xBFC00000, 0, 0x3F800000, 0, 0] }))
      (Holds 0 0 0xC0800000) := by decide +kernel -- V82

theorem test_sfplutfp32_indirect_sixteen_bit_table :
    Gives (exec (.sfplutfp32 1 10)
        (withLanes fun _ => { Lane.reset with gpr := #v[0x40003C00, 0, 0, 0x3F000000, 0, 0, 0, 5] }))
      (fun t => Holds 5 0 0x40000000 t && Holds 1 0 0 t && t.pending == [0, 1, 2, 3, 4, 5, 6, 7]) := by
  decide +kernel -- V88

theorem test_sfpmul24_halves :
    Gives (exec (.sfpmul24 0 1 9 2 1) (regs 0x007FFFFF 0x007FFFFF 0 0)) (Holds 2 0 0x007FFFFE) ∧
    Gives (exec (.sfpmul24 0 1 9 2 0) (regs 0xFF800003 0x80000005 0 0)) (Holds 2 0 15) := by decide +kernel -- V92, V94

theorem test_sfpdivp2 :
    Gives (exec (.sfpdivp2 3 0 1 1) (regs 0x7F000000 0 0 0)) (Holds 1 0 0x00800000) ∧
    Gives (exec (.sfpdivp2 3 0 1 1) (regs 0xFFC00001 0 0 0)) (Holds 1 0 0xFFC00001) ∧
    Gives (exec (.sfpdivp2 0x7F 0 1 0) (regs 0xC0490FDB 0 0 0)) (Holds 1 0 0xBFC90FDB) := by
  decide +kernel -- V98, V100, V102

theorem test_sfpexexp :
    Gives (exec (.sfpexexp 0 1 0) (regs 0 0 0 0)) (Holds 1 0 0xFFFFFF81) ∧
    Gives (exec (.sfpexexp 0 1 10) (flags 0x3F000000 0 true [])) (fun t => Holds 1 0 0xFFFFFFFF t && !(t.lane 0).laneFlag) := by
  decide +kernel -- V104, V109

theorem test_sfpexman_sfpsetman :
    Gives (exec (.sfpexman 0 1 0) (regs 0x3FC00000 0 0 0)) (Holds 1 0 0x00C00000) ∧
    Gives (exec (.sfpexman 0 1 1) (regs 0x3FC00000 0 0 0)) (Holds 1 0 0x00400000) ∧
    Gives (exec (.sfpsetman 0x800 0 1 1) (regs 0x40000000 0 0 0)) (Holds 1 0 0x40400000) ∧
    Gives (exec (.sfpsetman 0 0 1 0) (regs 0x40000000 0x00C00000 0 0)) (Holds 1 0 0x40400000) := by
  decide +kernel -- V112, V113, V121, V122

theorem test_sfpsetexp_sfpsetsgn :
    Gives (exec (.sfpsetexp 0 0 1 0) (regs 0xBFC00000 0x180 0 0)) (Holds 1 0 0xC0400000) ∧
    Gives (exec (.sfpsetexp 0 0 1 2) (regs 0xBFC00000 0x42000000 0 0)) (Holds 1 0 0xC2400000) ∧
    Gives (exec (.sfpsetsgn 0 0 1 0) (regs 0x40490FDB 0x80000000 0 0)) (Holds 1 0 0xC0490FDB) ∧
    Gives (exec (.sfpsetsgn 0 0 1 1) (regs 0xC0490FDB 0 0 0)) (Holds 1 0 0x40490FDB) := by
  decide +kernel -- V116, V117, V119, V120

theorem test_sfpabs :
    Gives (exec (.sfpabs 0 1 0) (regs 0x80000000 0 0 0)) (Holds 1 0 0x80000000) ∧
    Gives (exec (.sfpabs 0 1 1) (regs 0xFFC00001 0 0 0)) (Holds 1 0 0xFFC00001) ∧
    Gives (exec (.sfpabs 0 1 1) (regs 0xFF800000 0 0 0)) (Holds 1 0 0x7F800000) := by decide +kernel -- V124, V126, V127

theorem test_sfpiadd_subtracts_vd_from_vc :
    Gives (exec (.sfpiadd 0 0 1 10) (flags 5 7 true [])) (fun t => Holds 1 0 0xFFFFFFFE t && !(t.lane 0).laneFlag) := by
  decide +kernel -- V130

theorem test_sfpiadd_to_a_constant_changes_no_flag :
    Gives (exec (.sfpiadd 1 0 12 1) (flags 0xFFFFFFF0 0 true [])) (fun t => Holds 12 0 0 t && (t.lane 0).laneFlag) := by
  decide +kernel -- V135

theorem test_logic :
    Gives (exec (.sfpand 2 0 1 1) (regs 0x0F0F0F0F 0 0xFF000000 0)) (Holds 1 0 0x0F000000) ∧
    Gives (exec (.sfpor 2 0 1 1) (regs 0x0F0F0F0F 0 0xFF000000 0)) (Holds 1 0 0xFF0F0F0F) ∧
    Gives (exec (.sfpxor 0 1 0) (regs 0x0F0F0F0F 0x00FFFF00 0 0)) (Holds 1 0 0x0FF0F00F) ∧
    Gives (exec (.sfpnot 0 1 0) (regs 0x0F0F0F0F 0 0 0)) (Holds 1 0 0xF0F0F0F0) := by
  decide +kernel -- V138, V140, V141, V143

theorem test_sfplz :
    Gives (exec (.sfplz 0 1 10) (flags 0 0 true [])) (fun t => Holds 1 0 32 t && (t.lane 0).laneFlag) ∧
    Gives (exec (.sfplz 0 1 4) (regs 0x80000000 0 0 0)) (Holds 1 0 32) ∧
    Gives (exec (.sfplz 0 1 0) (regs 0x00010000 0 0 0)) (Holds 1 0 15) := by decide +kernel -- V150, V147, V144

theorem test_sfpshft :
    Gives (exec (.sfpshft 0xFFC 0 1 3) (regs 0 0x80000001 0 0)) (Holds 1 0 0xF8000000) ∧
    Gives (exec (.sfpshft 0 0 1 0) (regs 0x21 1 0 0)) (Holds 1 0 2) ∧
    Gives (exec (.sfpshft 8 0 1 5) (regs 0xFF 0 0 0)) (Holds 1 0 0xFF00) := by decide +kernel -- V153, V156, V157

theorem test_sfpshft2_rotates_within_a_row :
    Gives (exec (.sfpshft2 0 4 0 2) numbered)
      (fun t => Holds 3 0 0x407 t && Holds 3 8 0x40F t && Holds 2 9 0x309 t && t.pending == [0, 1, 2, 3] && t.nopRequired) ∧
    Gives (exec (.sfpshft2 0 4 5 4) numbered) (fun t => Holds 5 8 0 t && Holds 5 9 0x408 t && t.pending == [5]) := by
  decide +kernel -- section 3, modes 2 and 4

theorem test_sfpshft2_chained_and_shift :
    Gives (exec (.sfpshft2 0 0 0 1) numbered) (fun t => Holds 3 23 0x01F t && Holds 3 24 0 t && Holds 0 0 0x100 t) ∧
    Gives (exec (.sfpshft2 0x012 0 1 6) (regs 0 0 0xF0 0)) (Holds 1 0 0x03C00000) := by
  decide +kernel -- section 3, mode 1; V163

theorem test_sfpsetcc :
    Gives (exec (.sfpsetcc 0 0 0 4) (flags 0 0 true [])) (fun t => (t.lane 0).laneFlag) ∧
    Gives (exec (.sfpsetcc 0 0 0 2) (flags 0 0 true [])) (fun t => !(t.lane 0).laneFlag) ∧
    Gives (exec (.sfpsetcc 0 0 0 0) (regs 0x80000000 0 0 0)) (fun t => !(t.lane 0).laneFlag) := by
  decide +kernel -- V172, V169, V181

theorem test_sfpgt_orders_zeros_and_mutates_the_stack :
    Gives (exec (.sfpgt 0 1 1) (flags 0x80000000 0 true [])) (fun t => (t.lane 0).laneFlag) ∧
    Gives (exec (.sfpgt 0 1 2) (flags 0x40000000 0x3F800000 true [⟨true, true⟩]))
      (fun t => (t.lane 0).flagStack == [⟨false, true⟩] && (t.lane 0).laneFlag) := by decide +kernel -- V186, V194

theorem test_sfple :
    Gives (exec (.sfple 0 1 1) (flags 0x3F800000 0x3F800000 true [])) (fun t => (t.lane 0).laneFlag) ∧
    Gives (exec (.sfple 0 1 1) (flags 0x80000000 0 true [])) (fun t => !(t.lane 0).laneFlag) := by
  decide +kernel -- V199, V200

theorem test_sfpswap_rows :
    Gives (exec (.sfpswap 0 1 2) (regs 0x40000000 0xBF800000 0 0))
      (fun t => Holds 1 0 0xBF800000 t && Holds 0 0 0x40000000 t && Holds 1 16 0x40000000 t && Holds 0 16 0xBF800000 t &&
        t.pending == [0, 1]) ∧
    Gives (exec (.sfpswap 0 1 1) (regs 0 0x80000000 0 0)) (fun t => Holds 0 0 0 t && Holds 1 0 0x80000000 t) := by
  decide +kernel -- V208, V209, V206

theorem test_sfpcast :
    Gives (exec (.sfpcast 0 1 0) (regs 0x01000003 0 0 0)) (Holds 1 0 0x4B800002) ∧
    Gives (exec (.sfpcast 0 1 3) (regs 0xFFFFFFFB 0 0 0)) (Holds 1 0 0x80000005) ∧
    Gives (exec (.sfpcast 0 1 2) (regs 0xFFFFFFFB 0 0 0)) (Holds 1 0 5) := by decide +kernel -- V221, V215, V217

theorem test_sfpstochrnd_floats_and_bounds :
    Gives (exec (.sfpstochrnd 0 0 0 0 1 1 0) (regs 0x3F808000 0 0 0)) (fun t => Holds 1 0 0x3F810000 t && t.pending == [1]) ∧
    Gives (exec (.sfpstochrnd 2 0 0 0 1 2 0) (regs 0x40200000 0 0 0)) (Holds 1 0 2) ∧
    Gives (exec (.sfpstochrnd 0 0 0 0 1 7 0) (regs 0xFF800000 0 0 0)) (Holds 1 0 0x80007FFF) := by
  decide +kernel -- V225, V231, V240

theorem test_sfpstochrnd_integers :
    Gives (exec (.sfpstochrnd 0 2 0 0 1 5 1) (regs 0x80000136 0 0 0)) (Holds 1 0 0x8000004E) ∧
    Gives (exec (.sfpstochrnd 0 0 2 0 1 4 0) (regs 0x134 0 2 0)) (Holds 1 0 0x4D) := by decide +kernel -- V245, V248

theorem test_sfparecip_of_one :
    Gives (exec (.sfparecip 0 0 1 0) (regs 0xBF800000 0 0 0)) (Holds 1 0 0xBF7F0000) ∧
    Gives (exec (.sfparecip 2 0 1 1) (regs 0xBF800000 0 0 0)) (Holds 1 0 0xBF800000) := by decide +kernel -- V250, V253

theorem test_sfpmov_lanes :
    Gives (exec (.sfpmov 0 1 2) mixed) (fun t => Holds 1 0 5 t && Holds 1 1 5 t) ∧
    Gives (exec (.sfpmov 0 1 0) mixed) (fun t => Holds 1 0 5 t && Holds 1 1 7 t) ∧
    Gives (exec (.sfpmov 15 1 0) State.reset) (Holds 1 5 10) := by decide +kernel -- V258, V259, V261

theorem test_sfpmov_prng :
    Gives (exec (.sfpmov 9 1 8) (withLanes fun _ => { Lane.reset with prng := 0xC0000000 }))
      (fun t => Holds 1 0 0xC0000000 t && (t.lane 0).prng == 0x60000000) := by decide +kernel -- V266

theorem test_sfploadi :
    Gives (exec (.sfploadi 0 1 0x3555) State.reset) (Holds 0 0 0x3EAAA000) ∧
    Gives (exec (.sfploadi 0 4 0xFFFF) State.reset) (Holds 0 0 0xFFFFFFFF) ∧
    Gives (exec (.sfploadi 0 8 0x1234) (regs 0xAAAA5555 0 0 0)) (Holds 0 0 0x12345555) := by
  decide +kernel -- V272, V275, V279

theorem test_sfpconfig :
    Gives (exec (.sfpconfig 0 13 0) numbered) (fun t => Holds 13 21 5 t && Holds 13 5 5 t) ∧
    Gives (exec (.sfpconfig 0xABC 8 1) State.reset) (fun t => (t.lane 31).lmc.misc == 0xABC) ∧
    Gives (exec (.sfpconfig 0x1234 12 1) State.reset) (Holds 12 9 0x3B000000) := by
  decide +kernel -- R206 (first 8 lanes of LReg[0]), V291, V288

theorem test_sfpencc :
    Gives (exec (.sfpencc 3 0 10) State.reset) (fun t => (t.lane 7).useLaneFlags && (t.lane 7).laneFlag) ∧
    Gives (exec (.sfpencc 3 0 10) (flags 0 0 false [])) (fun t => !(t.lane 7).laneFlag) := by decide +kernel -- V299, V308

theorem test_sfppushc_at_the_depth_limit :
    Gives (exec (.sfppushc 0 0) (flags 0 0 true (List.replicate 7 ⟨true, true⟩))) (fun t => (t.lane 0).flagStack.length == 8) ∧
    Faults (exec (.sfppushc 0 0) (flags 0 0 true (List.replicate 8 ⟨true, true⟩))) (.flagStackOverflow 0 0) := by
  decide +kernel -- V310, V311

theorem test_sfppopc :
    Gives (exec (.sfppopc 0 0) (flags 0 0 false [⟨true, true⟩, ⟨false, true⟩]))
      (fun t => (t.lane 0).flagStack.length == 1 && (t.lane 0).laneFlag) ∧
    Gives (exec (.sfppopc 0 3) (flags 0 0 true [⟨false, true⟩])) (fun t => !(t.lane 0).laneFlag) ∧
    Refused (exec (.sfppopc 0 3) (flags 0 0 true [⟨true, false⟩])) .popSwitchMismatch := by
  decide +kernel -- V315, V319, V321

theorem test_sfpcompc :
    Gives (exec (.sfpcompc 0 0) (flags 0 0 false [⟨true, true⟩])) (fun t => (t.lane 0).laneFlag) ∧
    Gives (exec (.sfpcompc 0 0) (flags 0 0 false [⟨true, false⟩])) (fun t => !(t.lane 0).laneFlag) := by
  decide +kernel -- V328, V329

theorem test_sfpnop : Gives (exec .sfpnop { State.reset with pending := [3] }) (fun t => t.pending == [] && t.pos == 1) := by
  decide +kernel -- V296

theorem test_refused_instructions :
    Refused (exec (.sfptransp 0 0 0) State.reset) (.inadmissible .transpNotDescribed) ∧
    Refused (exec (.sfploadmacro 0 0 0 0) State.reset) (.inadmissible .loadMacroNotDescribed) := by
  decide +kernel -- V297, V298

/-- R266: a pending VB of SFPAND faults; an SFPNOP in place of SFPAND runs. -/
theorem test_hazard :
    Faults (exec (.sfpand 3 0 1 1) { State.reset with pending := [3] }) (.hazardViolation 0) ∧
    Gives (exec (.sfpand 3 0 1 0) { State.reset with pending := [3] }) (fun t => t.pos == 1) ∧
    Faults (exec (.sfpnot 0 1 0) { State.reset with nopRequired := true }) (.hazardViolation 0) := by decide +kernel

/-- The word that the host places runs as the first instruction after reset. -/
theorem test_withFetchWord :
    Gives (step (State.reset.withFetchWord 32 0x71003FC0)) (fun t => Holds 0 0 0x3FC00000 t && t.pos == 1) ∧
    decodeTableWord 32 0x71003FC0 = some (.sfploadi 0 0 0x3FC0) := by decide +kernel -- V269


/-! ## Witnesses: states and operands that meet the hypotheses of each statement

A statement about `Completes` has the hypothesis `MayIssue`; `mixed` has enabled and disabled lanes. Where a clause
takes a range of operands, its boundary values are shown. -/

theorem mayIssue_of {s : State} (h : s.nopRequired = false) (hp : s.pending = []) (reads : List Reg) :
    MayIssue s reads := ⟨h, by simp [hp]⟩

theorem mixed_mayIssue (reads : List Reg) : MayIssue mixed reads := mayIssue_of rfl rfl reads

theorem mixed_lanes : (∀ l, laneEnabled mixed l = (l.val % 2 == 0)) := by decide +kernel

theorem reset_lanes : (∀ l, laneEnabled State.reset l = true) := by decide +kernel

/-- A `LaneConfig` with every bit set outside `ROW_MASK`: both flags are true and no row is masked. -/
def flagsConfig : BitVec 18 := ~~~(15#18 <<< Config.rowMaskLo.val)

theorem flagsConfig_fields : disableBackdoorLoad flagsConfig = true ∧ enableDestIndex flagsConfig = true ∧
    ∀ r < 4, rowMask flagsConfig r = false := by
  have key : ∀ lo : Fin 15, (∀ k : Fin 14, (~~~(15#18 <<< lo.val)).getLsbD (if k.val < lo.val then k.val else k.val + 4) = true)
      ∧ (∀ r < 4, (~~~(15#18 <<< lo.val)).getLsbD (lo.val + r) = false) ∧ ~~~(15#18 <<< lo.val) ≠ 0#18 := by decide +kernel
  obtain ⟨h1, h2, h3⟩ := key Config.rowMaskLo
  have nz : (~~~(15#18 <<< Config.rowMaskLo.val) != 0#18) = true := by simpa using h3
  refine ⟨?_, ?_, fun r hr => ?_⟩
  · simp only [disableBackdoorLoad, cfgBit, flagsConfig, nz, outsideRowMask, Bool.true_and]
    exact h1 Config.disableBackdoorRank
  · simp only [enableDestIndex, cfgBit, flagsConfig, nz, outsideRowMask, Bool.true_and]
    split
    · exact h1 ⟨Config.enableDestIndexRank.val, by have := Config.disableBackdoorRank.isLt; simp only [Config.laneConfigBits, Config.gridRows] at this; omega⟩
    · exact h1 ⟨Config.enableDestIndexRank.val + 1, by have := Config.enableDestIndexRank.isLt; simp only [Config.laneConfigBits, Config.gridRows] at this; omega⟩
  · simp only [rowMask, cfgBit, flagsConfig, nz, Bool.true_and]
    exact h2 r hr

/-- All lanes enabled, both flags of `LaneConfig` set. -/
def configured : State := withLanes fun _ => { Lane.reset with laneConfig := flagsConfig }

theorem configured_lane (l : LaneIx) : configured.lane l = { Lane.reset with laneConfig := flagsConfig } := by
  simp [configured, withLanes, State.lane]

theorem configured_enabled (l : LaneIx) : laneEnabled configured l = true := by
  have h : rowMask flagsConfig (laneRow l) = false := flagsConfig_fields.2.2 _ (by have := l.isLt; simp only [laneRow, Config.gridCols]; omega)
  simp [laneEnabled, configured_lane, h, Lane.reset]

theorem witness_LaneEnable_masked_row : ∃ (s : State) (l : LaneIx), laneEnabled s l = false ∧ (s.lane l).useLaneFlags = false := by
  refine ⟨withLanes fun _ => { Lane.reset with laneConfig := 0x3FFFF#18 }, 31, ?_, by decide +kernel⟩
  have key : ∀ lo : Fin 15, (0x3FFFF#18).getLsbD (lo.val + 3) = true := by decide
  have h : rowMask 0x3FFFF#18 3 = true := by simp only [rowMask, cfgBit]; exact key _
  simp [laneEnabled, withLanes, State.lane, laneRow, Config.gridCols, h]

/-- The stream SFPNOP, then a word that is no instruction, then the end. -/
def shortStream (p : Nat) : State := { State.reset with program := [⟨0x8F000000, none⟩, ⟨0x73000000, none⟩], pos := p }

/-- The same without the word that is no instruction. -/
def nopStream : State := { State.reset with program := [⟨0x8F000000, none⟩] }

theorem witness_StepRunsTheDeliveredInstruction :
    (AdmittedStream nopStream.program ∧ nopStream.program[nopStream.pos]? = some ⟨0x8F000000, none⟩ ∧
      decode 0x8F000000 = .ok .sfpnop) ∧
    ((shortStream 0).pos = 0 ∧ ¬AdmittedStream (shortStream 0).program) ∧
    ((shortStream 1).pos ≠ 0 ∧ (shortStream 1).program[(shortStream 1).pos]? = some ⟨0x73000000, none⟩ ∧
      decode 0x73000000 = .error (.notSfpu 0x73)) ∧
    (shortStream 2).program.length ≤ (shortStream 2).pos := by
  refine ⟨⟨?_, by decide +kernel⟩, ⟨rfl, fun h => ?_⟩, by decide +kernel⟩
  · intro d hd
    obtain rfl := List.mem_singleton.1 hd
    exact ⟨.sfpnop, by decide +kernel⟩
  · obtain ⟨i, hi, _⟩ := h ⟨0x73000000, none⟩ (by simp [shortStream])
    have he : decode 0x73000000#32 = .error (.notSfpu 0x73) := by decide +kernel
    simp [he] at hi

/-- R243, R262: a stream is refused before it starts for a word that stands later in it. -/
theorem test_stream_refused_before_start : Refused (step (shortStream 0)) (.undecodable (.notSfpu 0x73)) = true ∧
    Refused (step { State.reset with program := [⟨0x8F000000, none⟩, ⟨0x8C000000, none⟩] })
      (.inadmissible .transpNotDescribed) = true := by decide +kernel

/-- R5: the register indices are the general registers, three constants, the programmable ones, the lane number, and
index 16. -/
theorem test_register_count : Config.nGpr + 3 + Config.nPrg + 1 + 1 = Config.nLreg ∧
    Config.gridRows * Config.gridCols = Config.nLanes ∧ Config.prngTaps = 0x80200003#32 := by decide

/-- R58, R251: a thread that is not listed gets its counters (log entry 12). -/
theorem test_unlisted_thread : (setRwc 2 [⟨1, 1⟩] ⟨5, 6⟩) = [⟨1, 1⟩, ⟨0, 0⟩, ⟨5, 6⟩] := by decide

theorem witness_DecodableWordsAreEncodings : decode 0x8F000000 = .ok .sfpnop ∧
    (∀ i, (0x6F000000#32).extractLsb' 24 8 ≠ opcode i) ∧ (∀ i, (0x73000000#32).extractLsb' 24 8 ≠ opcode i) ∧
    (∀ i, (0x9A000000#32).extractLsb' 24 8 ≠ opcode i) := by
  refine ⟨by decide, ?_, ?_, ?_⟩ <;> intro i <;> cases i <;> simp [opcode]

/-- Full stacks, a pending register, a defined cell, and SFPPOPC next. -/
def busy : State :=
  { withLanes (fun _ => lane (1, 2, 3, 4) true true (List.replicate 8 ⟨true, true⟩)) with
    dest := tile 255 1 2, overlay := swapped, pending := [0, 7], program := [⟨encode (.sfppopc 0 0), none⟩] }

theorem witness_EveryStepKeepsTheInvariant : Inv busy ∧ ∃ t, step busy = .next t := by
  refine ⟨⟨?_, ?_, ?_, ?_, ?_, ?_, ?_, ?_, swapped_lawful⟩, exists_next (by decide +kernel)⟩ <;> decide +kernel

theorem witness_StateChangesOnlyByItsWriters : (∃ t, exec .sfpnop mixed = .next t) ∧ ¬isAccess .sfpnop ∧ ¬isStore .sfpnop ∧
    ¬isConfig .sfpnop ∧ ¬writesPrng .sfpnop ∧ ¬writesSwitch .sfpnop ∧ ¬writesStack .sfpnop ∧ ¬writesFlags .sfpnop := by
  refine ⟨exists_next (by decide +kernel), ?_⟩
  simp [isAccess, isStore, isConfig, writesPrng, writesSwitch, writesStack, writesFlags]

/-- `mixed` with one entry on every stack. -/
def mixedOpen : State := withLanes fun l => lane (5, 7, 0, 0) true (l.val % 2 == 0) [⟨true, true⟩]

theorem witness_DisabledLanesKeepTheirState : laneEnabled mixedOpen 1 = false ∧
    (¬actsWhenDisabled (.sfpnot 0 1 0) ∧ ∃ t, exec (.sfpnot 0 1 0) mixedOpen = .next t) ∧
    (∃ t, exec (.sfpgt 0 1 2) mixedOpen = .next t) ∧ (∃ t, exec (.sfple 0 1 15) mixedOpen = .next t) ∧
    ∃ t, exec (.sfpmov 0 1 2) mixedOpen = .next t := by
  refine ⟨by decide +kernel, ⟨by simp [actsWhenDisabled], exists_next (by decide +kernel)⟩, exists_next (by decide +kernel),
    exists_next (by decide +kernel), exists_next (by decide +kernel)⟩

/-- `mixed` with other registers in the lanes other than 0. -/
def mixedElsewhere : State := withLanes fun l => lane (5, if l.val = 0 then 7 else 9, 0, 0) true (l.val % 2 == 0) []

theorem witness_LanesDoNotSeeEachOther : ¬readsOtherLanes (.sfpnot 0 1 0) ∧ ¬readsOtherLanes (.sfpstore 0 6 0 0) ∧
    mixed.lane 0 = mixedElsewhere.lane 0 ∧ mixed.lane 2 ≠ mixedElsewhere.lane 2 ∧
    (mixed.lane (columnLane 0)).laneConfig = (mixedElsewhere.lane (columnLane 0)).laneConfig ∧
    mixed.pos = mixedElsewhere.pos ∧ mixed.dest = mixedElsewhere.dest ∧ mixed.tensix = mixedElsewhere.tensix ∧ mixed.thread = mixedElsewhere.thread ∧
    mixed.overlay = mixedElsewhere.overlay ∧
    (∃ t, exec (.sfpnot 0 1 0) mixed = .next t) ∧ (∃ t, exec (.sfpnot 0 1 0) mixedElsewhere = .next t) ∧
    (∃ t, exec (.sfpstore 0 6 0 0) mixed = .next t) ∧ ∃ t, exec (.sfpstore 0 6 0 0) mixedElsewhere = .next t := by
  refine ⟨by simp [readsOtherLanes], by simp [readsOtherLanes], by decide +kernel, by decide +kernel, by decide +kernel, rfl, rfl,
    rfl, rfl, rfl, exists_next (by decide +kernel), exists_next (by decide +kernel), exists_next (by decide +kernel),
    exists_next (by decide +kernel)⟩

theorem witness_InstructionsAdvanceAndLeavePending : (∃ t, exec (.sfpmad 0 1 2 7 8) mixed = .next t) ∧
    (∃ t, exec (.sfpshft2 0 0 0 2) mixed = .next t) ∧ ∃ t, exec (.sfpconfig 1 15 1) State.reset = .next t := by
  refine ⟨exists_next (by decide +kernel), exists_next (by decide +kernel), exists_next (by decide +kernel)⟩

theorem witness_HazardFaultsExactlyOnUndetectedReads :
    let s := { mixed with pending := [0, 7] }
    ((Instr.sfpand 7 0 1 1).wellFormed = true ∧ ¬StateRefused (.sfpand 7 0 1 1) s ∧ ∃ r ∈ s.pending, undetectedRead (.sfpand 7 0 1 1) r) ∧
    ((Instr.sfpand 7 0 1 0).wellFormed = true ∧ ¬StateRefused (.sfpand 7 0 1 0) s ∧ ¬∃ r ∈ s.pending, undetectedRead (.sfpand 7 0 1 0) r) ∧
    ((Instr.sfpnot 0 1 0).wellFormed = true ∧ ¬StateRefused (.sfpnot 0 1 0) { s with nopRequired := true }) := by
  refine ⟨⟨by decide, by simp [StateRefused], 7, by simp, by simp [undetectedRead]⟩,
    ⟨by decide, by simp [StateRefused], by simp [undetectedRead]⟩, by decide, by simp [StateRefused]⟩

theorem witness_StateRefusalsAreExactlyThoseOfTheSpec :
    ((Instr.sfpstore 8 4 0 0).wellFormed = true ∧ StateRefused (.sfpstore 8 4 0 0) State.reset) ∧
    ((Instr.sfpstore 11 4 0 0).wellFormed = true ∧ ¬StateRefused (.sfpstore 11 4 0 0) configured) ∧
    ((Instr.sfpswap 0 1 0).wellFormed = true ∧ StateRefused (.sfpswap 0 1 0) configured) ∧
    ((Instr.sfpconfig 0 11 1).wellFormed = true ∧ StateRefused (.sfpconfig 0 11 1) mixed) ∧
    (Instr.sfppopc 0 1).wellFormed = true ∧ (Instr.sfppopc 0 12).wellFormed = true ∧
    StateRefused (.sfppopc 0 1) (flags 0 0 true [⟨true, false⟩]) ∧
    StateRefused (.sfppopc 0 12) (flags 0 0 true [⟨true, false⟩]) ∧
    ¬StateRefused (.sfppopc 0 13) (flags 0 0 true [⟨true, false⟩]) := by
  refine ⟨⟨by decide, by decide, 0, by decide +kernel⟩, ⟨by decide, ?_⟩, ⟨by decide, 0, ?_⟩, ⟨by decide, 1, by decide +kernel⟩,
    by decide, by decide, ⟨by decide, by decide, 0, ⟨true, false⟩, [], by decide +kernel, by decide +kernel⟩,
    ⟨by decide, by decide, 0, ⟨true, false⟩, [], by decide +kernel, by decide +kernel⟩, ?_⟩
  · rintro ⟨-, l, h⟩; simp [configured_lane, flagsConfig_fields.1] at h
  · simp [configured_lane, flagsConfig_fields.2.1]
  · rintro ⟨-, h, -⟩; revert h; decide

/-- The ranges of `Obligations.ReservedFormsAreRefused` at their boundaries. -/
theorem witness_ReservedFormsAreRefused :
    (9#4 ≠ 10#4 ∧ 9#4 ≠ 11#4 ∧ 12#4 ≤ 12#4 ∧ 12#4 ≤ 15#4) ∧ ((1#4).getLsbD 0 = true ∧ (4#4).getLsbD 2 = true) ∧
    (5#4 &&& 11#4 = 1#4 ∧ 13#4 &&& 11#4 = 9#4) ∧ ((2#4).getLsbD 1 = true ∧ (13#4).getLsbD 1 = false ∧ 10#4 ≠ 9#4) ∧
    (2#4 ≤ 2#4 ∧ 3#4 ≤ 3#4 ∧ 7#4 ≤ 7#4 ∧ 10#4 ≤ 15#4 ∧ 4#4 ≤ 4#4) ∧ ((8#4).getLsbD 3 = true ∧ (15#4).getLsbD 3 = true) ∧
    (5#4 < 6#4 ∧ (0x010#12).extractLsb' 4 8 ≠ 0#8) ∧ (2#2 ≠ 3#2 ∧ 3#3 ≠ 4#3 ∧ 6#3 ≠ 5#3 ∧ (31#5 ≠ 0#5 ∨ 1#1 ≠ 0#1)) ∧
    (3#4 ∉ [0#4, 1#4, 2#4, 8#4, 9#4] ∧ 3#4 ∉ [0#4, 1#4, 2#4, 4#4, 8#4, 10#4] ∧ 10#4 ∈ [0#4, 1#4, 2#4, 4#4, 8#4, 10#4]) ∧
    (8#4 ≠ 9#4 ∧ 11#4 ≠ 10#4 ∧ (14#4 : BitVec 4) ≠ 15#4) := by decide

theorem witness_LanesMapToDistinctDestCells : destRow 1023 31 = 1023 ∧ destCol 1023 false 31 = 15 ∧ destRow 6 13 = 5 ∧
    destCol 6 false 13 = 11 ∧ destCol 4 true 13 = 11 := by decide

/-- The cells of the topmost rows hold values; predication as in `mixed`. -/
def loaded : State := { mixed with dest := tile 255 0x407F 0x0080 }

theorem witness_LoadReadsSixteenBitCells : 7#4 < 8#4 ∧
    (∀ m ∈ [1#4, 2#4, 5#4, 6#4, 7#4, 8#4, 9#4, 13#4, 14#4, 15#4], m ≠ 10#4 ∧ resolveMode loaded m ∉ [3#4, 4#4, 11#4, 12#4]) ∧
    (∀ l, laneEnabled loaded l = true → loaded.dest.read (loadKey loaded 1023 l) = some 0x0080) ∧
    (∀ l, laneEnabled loaded l = true → loaded.dest.read (loadKey loaded 1020 l) = some 0x407F) ∧ MayIssue loaded [] := by
  refine ⟨by decide, by decide +kernel, by decide +kernel, by decide +kernel, mayIssue_of rfl rfl _⟩

/-- The 32-bit cells of the topmost rows hold values, under an overlay other than the candidate. -/
def loaded32 : State :=
  { mixed with overlay := swapped, dest := (tile32 127 0x12345678).write32 swapped 508 1 0x12345678 }

theorem witness_LoadReadsThirtyTwoBitCells : 7#4 < 8#4 ∧
    (∀ m ∈ [0#4, 3#4, 4#4, 12#4], resolveMode loaded32 m ∈ [3#4, 4#4, 12#4]) ∧
    (∀ l, laneEnabled loaded32 l = true → destRow (destAddr loaded32 511) l < 512 ∧
      loaded32.dest.read (loadHalves loaded32 511 l).1 = some ((0x12345678 : Word).extractLsb' 16 16) ∧
      loaded32.dest.read (loadHalves loaded32 511 l).2 = some ((0x12345678 : Word).extractLsb' 0 16)) ∧
    loadHalves loaded32 511 0 = (1020 * 16 + 1, 508 * 16 + 1) ∧ MayIssue loaded32 [] := by
  refine ⟨by decide, by decide +kernel, by decide +kernel, by decide +kernel, mayIssue_of rfl rfl _⟩

theorem witness_LoadEdgeForms : 8#4 ≤ 8#4 ∧ 8#4 ≤ 15#4 ∧ 11#4 ≠ 10#4 ∧ 7#4 < 8#4 ∧ MayIssue mixed [] :=
  ⟨by decide, by decide, by decide, by decide, mixed_mayIssue _⟩

/-- Lanes 0 to 2 are disabled, lane 3 is the lowest enabled one. -/
def fromThree : State := withLanes fun l => lane (5, 7, 0, 0) true (3 ≤ l.val) []

theorem witness_AccessFaultsNameTheLowestLane :
    (MayIssue mixed [] ∧ MayIssue fromThree [] ∧ MayIssue configured []) ∧
    (resolveMode mixed 6 ∉ [3#4, 4#4, 11#4, 12#4] ∧ laneEnabled { mixed with dest := [(0, 1), (4, 1)] } 4 = true ∧
      Memory.read [(0, 1), (4, 1)] (loadKey mixed 0 4) = none ∧
      ∀ k : LaneIx, k < 4 → laneEnabled mixed k = true → Memory.read [(0, 1), (4, 1)] (loadKey mixed 0 k) ≠ none) ∧
    (resolveMode mixed 12 ∈ [3#4, 4#4, 12#4] ∧ destAddr mixed 511 < 512 ∧ laneEnabled mixed 0 = true ∧
      Memory.read [(8129, 1)] (loadHalves mixed 511 0).1 ≠ none ∧ Memory.read [(8129, 1)] (loadHalves mixed 511 0).2 = none) ∧
    (let s := { mixed with overlay := swapped }
     Memory.read [(8129, 1)] (loadHalves s 511 0).1 = none ∧ Memory.read [(8129, 1)] (loadHalves s 511 0).2 ≠ none) ∧
    (512 ≤ destAddr fromThree 512 ∧ laneEnabled fromThree 3 = true ∧ (∀ k : LaneIx, k < 3 → laneEnabled fromThree k = false) ∧
      StoreSource fromThree 7 ∧ resolveMode fromThree 9 ∈ [3#4, 4#4, 7#4, 9#4, 12#4]) ∧
    StoreSource configured 8 ∧ StoreSource configured 11 ∧ 512 ≤ destAddr configured 1023 := by
  refine ⟨⟨mixed_mayIssue _, mayIssue_of rfl rfl _, mayIssue_of rfl rfl _⟩, by decide +kernel, by decide +kernel,
    by decide +kernel,
    ⟨by decide +kernel, by decide +kernel, by decide +kernel, .inl (by decide), by decide +kernel⟩,
    .inr ⟨by decide, fun l => by simp [configured_lane, flagsConfig_fields.1]⟩,
    .inr ⟨by decide, fun l => by simp [configured_lane, flagsConfig_fields.1]⟩, by decide +kernel⟩

theorem witness_StoreWritesSixteenBitCells : StoreSource mixed 7 ∧ StoreSource configured 8 ∧ StoreSource configured 11 ∧
    (∀ m ∈ [1#4, 2#4, 5#4, 6#4, 8#4, 13#4, 14#4, 15#4],
      resolveMode mixed m ∈ [1#4, 2#4, 5#4, 6#4, 8#4, 13#4, 14#4, 15#4]) ∧ MayIssue mixed [] ∧ MayIssue configured [] ∧
    laneEnabled configured 31 = true := by
  refine ⟨.inl (by decide), .inr ⟨by decide, fun l => by simp [configured_lane, flagsConfig_fields.1]⟩,
    .inr ⟨by decide, fun l => by simp [configured_lane, flagsConfig_fields.1]⟩, by decide +kernel, mixed_mayIssue _,
    mayIssue_of rfl rfl _, configured_enabled _⟩

theorem witness_StoreWritesThirtyTwoBitCells : StoreSource mixed 7 ∧
    (∀ m ∈ [0#4, 3#4, 4#4, 7#4, 9#4, 12#4], resolveMode mixed m ∈ [3#4, 4#4, 7#4, 9#4, 12#4]) ∧
    (LawfulOverlay mixed.overlay ∧ LawfulOverlay { mixed with overlay := swapped }.overlay) ∧
    (∀ l, laneEnabled mixed l = true → destRow (destAddr mixed 511) l < 512) ∧ MayIssue mixed [] := by
  refine ⟨.inl (by decide), by decide +kernel, ⟨lawfulOverlay_nil, swapped_lawful⟩, by decide +kernel, mixed_mayIssue _⟩

theorem witness_LoadAfterStoreReturnsTheDatum : 7#4 < 8#4 ∧ mixed.tensix.destRdColExchange = false ∧
    LawfulOverlay mixed.overlay ∧ (∀ l, (storeHalves mixed 511 l).1 = storeKey mixed 511 l) ∧
    (∀ m ∈ [1#4, 2#4, 3#4, 4#4, 5#4, 6#4, 7#4, 8#4, 9#4, 12#4, 13#4, 14#4, 15#4], ∃ t, exec (.sfpstore 0 m 0 511) mixed = .next t) := by
  refine ⟨by decide, rfl, lawfulOverlay_nil, by decide +kernel, ?_⟩
  have h : ∀ m ∈ [1#4, 2#4, 3#4, 4#4, 5#4, 6#4, 7#4, 8#4, 9#4, 12#4, 13#4, 14#4, 15#4], Gives (exec (.sfpstore 0 m 0 511) mixed) (fun _ => true) = true := by
    decide +kernel
  exact fun m hm => exists_next (h m hm)

theorem witness_FmaSpecialOperands : Nan 0xFF800001#32 ∧
    (Infinite 0xFF800000#32 ∧ flushed 0x807FFFFF#32 &&& 0x7FFFFFFF#32 = 0#32) ∧
    (¬Nan 0x7F800000#32 ∧ ¬Nan 0x00800000#32 ∧ flushed 0x7F800000#32 &&& 0x7FFFFFFF#32 ≠ 0#32 ∧
      flushed 0x00800000#32 &&& 0x7FFFFFFF#32 ≠ 0#32 ∧ Infinite 0x7F800000#32 ∧
      (0xFF800000#32).getLsbD 31 ≠ ((0x7F800000#32).getLsbD 31 ^^ (0x00800000#32).getLsbD 31)) ∧
    (Finite 0x7F7FFFFF#32 ∧ Finite 0#32) := by unfold Nan Sys2Proof.Machine.Infinite Sys2Proof.Machine.Finite; decide

theorem witness_FmaRoundsExactProducts :
    (Finite 0#32 ∧ Finite 0x3F800000#32 ∧ Finite 0x00800001#32 ∧ Finite 0x80800000#32 ∧ Finite 0x7F7FFFFF#32 ∧
      Finite 0x73000000#32 ∧ Finite 0x00800000#32) ∧
    (let p := fpValue (flushed 0x00800001#32) * fpValue (flushed 0x3F800000#32)
     p = fpValue 0x00800001#32 ∧ (0x00800001#32).extractLsb' 23 8 ≠ 0#8 ∧ p + fpValue (flushed 0x80800000#32) ≠ 0 ∧
      |p + fpValue (flushed 0x80800000#32)| < 1 / 2 ^ 126) ∧
    (fpValue (flushed 0#32) * fpValue (flushed 0#32) = 0 ∧ fpValue (flushed 0x00800000#32) = 1 / 2 ^ 126) ∧
    (let p := fpValue (flushed 0x7F7FFFFF#32) * fpValue (flushed 0x3F800000#32)
     p = fpValue 0x7F7FFFFF#32 ∧ p + fpValue (flushed 0#32) < 2 ^ 128 - 2 ^ 103 ∧
      p + fpValue (flushed 0x73000000#32) = 2 ^ 128 - 2 ^ 103) := by
  refine ⟨by unfold Sys2Proof.Machine.Finite; decide, ?_, ?_, ?_⟩ <;> simp [fpValue, flushed] <;> norm_num [abs_lt]

theorem witness_FmaNeverGivesDenormalOrStrayNan : (fma 0 0 0).extractLsb' 23 8 = 0#8 ∧ Nan (fma 0x7F800001 0 0) := by
  unfold Nan; decide +kernel

/-- Every statement of a lanewise instruction asks for `MayIssue` and a mode in its range: the boundaries. -/
theorem witness_modes :
    (∀ m ∈ [0#4, 2#4, 8#4, 10#4], m ∈ [0#4, 2#4, 8#4, 10#4]) ∧
    (∀ m ∈ [0#4, 6#4, 7#4, 15#4], m &&& 11#4 ∈ [0#4, 2#4, 3#4, 8#4, 10#4, 11#4]) ∧
    ((13#4).getLsbD 1 = false ∧ (11#4).getLsbD 2 = false ∧ (14#4).getLsbD 0 = false ∧ (7#4).getLsbD 3 = false) ∧
    (4#4 < 5#4 ∧ (0x00F#12).extractLsb' 4 8 = 0#8) ∧ (7#4 < 8#4) ∧ (9#4 ≤ 9#4 ∧ 3#4 < 4#4 ∧ 2#4 < 3#4) ∧
    (2#2 ≠ 3#2 ∧ 2#3 ≤ 2#3 ∧ 2#3 ≤ 7#3 ∧ (0#5 = 0#5 ∧ 0#1 = 0#1)) ∧ (10#4 ∈ [0#4, 1#4, 2#4, 4#4, 8#4, 10#4]) ∧
    (∀ reads, MayIssue mixed reads) := by
  refine ⟨by decide, by decide, by decide, by decide, by decide, by decide, by decide, by decide, mixed_mayIssue⟩

theorem witness_MadAddMulComputeTheSame : laneEnabled mixed 0 = true ∧ laneEnabled mixed 1 = false ∧
    MayIssue mixed [] ∧ ∀ i ∈ [Instr.sfpmad 15 11 8 7 15, .sfpadd 15 11 8 7 15, .sfpmul 15 11 8 7 15],
      ∃ t, exec i mixed = .next t := by
  refine ⟨by decide +kernel, by decide +kernel, mixed_mayIssue _, ?_⟩
  have h : ∀ i ∈ [Instr.sfpmad 15 11 8 7 15, .sfpadd 15 11 8 7 15, .sfpmul 15 11 8 7 15],
      Gives (exec i mixed) (fun _ => true) = true := by decide +kernel
  exact fun i hi => exists_next (h i hi)

/-- The smallest and the largest argument of law A1, and the largest of law A3. -/
theorem witness_ReciprocalAndExponential :
    ((0x00800000#32).getLsbD 31 = false ∧ 1#8 ≤ (0x00800000#32).extractLsb' 23 8) ∧
    ((0x7E7FFFFF#32).getLsbD 31 = false ∧ (0x7E7FFFFF#32).extractLsb' 23 8 ≤ 252#8) ∧
    (0x3FFFFFFF#32).toNat < 0x40000000 ∧ 2#4 < 3#4 ∧ MayIssue mixed [] := by
  refine ⟨by decide, by decide, by decide, by decide, mixed_mayIssue _⟩

theorem witness_SignMagnitudeOrder : Finite 0x7F7FFFFF#32 ∧ Finite 0xFF7FFFFF#32 ∧
    fpValue 0xFF7FFFFF#32 < fpValue 0x7F7FFFFF#32 ∧ smValue 0xFFFFFFFF#32 < smValue 0x7FFFFFFF#32 ∧
    0 ≤ (0x7FFFFFFF#32).toInt ∧ (0x80000000#32).toInt < 0 ∧ Nan 0xFF800001#32 ∧ Nan 0x7FFFFFFF#32 := by
  refine ⟨by unfold Sys2Proof.Machine.Finite; decide, by unfold Sys2Proof.Machine.Finite; decide, ?_, ?_, by decide, by decide, by unfold Nan; decide,
    by unfold Nan; decide⟩
  · simp [fpValue]; norm_num
  · simp [smValue]

/-- One entry on every stack but that of lane 31. -/
def lastEmpty : State := withLanes fun l => lane (5, 7, 0, 0) true (l.val % 2 == 0) (if l.val = 31 then [] else [⟨true, true⟩])

theorem witness_CompareWritesFlagStackAndRegister : (15#4).getLsbD 1 = true ∧ (13#4).getLsbD 1 = false ∧
    (∀ l : LaneIx, (mixedOpen.lane l).flagStack ≠ []) ∧ MayIssue mixedOpen [] ∧ MayIssue lastEmpty [] ∧
    (lastEmpty.lane 31).flagStack = [] ∧ ∀ k : LaneIx, k < 31 → (lastEmpty.lane k).flagStack ≠ [] := by
  refine ⟨by decide, by decide, by decide +kernel, mayIssue_of rfl rfl _, mayIssue_of rfl rfl _, by decide +kernel,
    by decide +kernel⟩

theorem witness_SwapOrdersThePairByRow : 9#4 ≤ 9#4 ∧ (∀ l : LaneIx, enableDestIndex (mixed.lane l).laneConfig = false) ∧
    MayIssue mixed [0#4, 1#4] := by
  refine ⟨by decide, by decide +kernel, mixed_mayIssue _⟩

theorem witness_ConfigWritesItsDestinationInAllLanes : (∀ v ∈ [8#4, 11#4, 15#4], v ≠ 9#4 ∧ v ≠ 10#4) ∧ 5#4 < 6#4 ∧
    (∀ l, laneEnabled State.reset l = true) ∧ MayIssue State.reset [0#4] :=
  ⟨by decide, by decide, reset_lanes, mayIssue_of rfl rfl _⟩

theorem witness_EnableConditionCodes : 7#4 < 8#4 ∧ (11#4).getLsbD 2 = false ∧ MayIssue mixed [] :=
  ⟨by decide, by decide, mixed_mayIssue _⟩

/-- Stacks of 7 entries, but 8 in lane 31. -/
def lastFull : State := withLanes fun l => lane (5, 7, 0, 0) true true (List.replicate (if l.val = 31 then 8 else 7) ⟨true, true⟩)

theorem witness_PushSavesOrMutatesTheTop : 7#4 < 8#4 ∧ 14#4 ≠ 15#4 ∧
    (∀ l : LaneIx, (mixedOpen.lane l).flagStack.length < 8) ∧ (∀ l : LaneIx, (mixedOpen.lane l).flagStack ≠ []) ∧
    MayIssue mixedOpen [] ∧ MayIssue lastFull [] ∧ MayIssue lastEmpty [] ∧
    (8 ≤ (lastFull.lane 31).flagStack.length ∧ ∀ k : LaneIx, k < 31 → (lastFull.lane k).flagStack.length < 8) ∧
    (lastEmpty.lane 31).flagStack = [] ∧ ∀ k : LaneIx, k < 31 → (lastEmpty.lane k).flagStack ≠ [] := by
  refine ⟨by decide, by decide, by decide +kernel, by decide +kernel, mayIssue_of rfl rfl _, mayIssue_of rfl rfl _,
    mayIssue_of rfl rfl _, by decide +kernel, by decide +kernel⟩

theorem witness_PopRestoresOrMutatesTheFlags : 7#4 < 8#4 ∧
    (∀ m ∈ [0#4, 1#4, 12#4, 13#4, 14#4, 15#4], ¬StateRefused (.sfppopc 7 m) mixedOpen ∧ ¬StateRefused (.sfppopc 7 m) lastEmpty) ∧
    (∀ l : LaneIx, (mixedOpen.lane l).flagStack ≠ []) ∧ MayIssue mixedOpen [] ∧ MayIssue lastEmpty [] ∧
    (lastEmpty.lane 31).flagStack = [] ∧ ∀ k : LaneIx, k < 31 → (lastEmpty.lane k).flagStack ≠ [] := by
  have h1 : ∀ l : LaneIx, (mixedOpen.lane l).flagStack = [⟨true, true⟩] ∧ (mixedOpen.lane l).useLaneFlags = true := by decide +kernel
  have h2 : ∀ l : LaneIx, ((lastEmpty.lane l).flagStack = [⟨true, true⟩] ∨ (lastEmpty.lane l).flagStack = []) ∧
      (lastEmpty.lane l).useLaneFlags = true := by decide +kernel
  refine ⟨by decide, fun m _ => ⟨?_, ?_⟩, by decide +kernel, mayIssue_of rfl rfl _, mayIssue_of rfl rfl _, by decide +kernel,
    by decide +kernel⟩
  · rintro ⟨-, -, l, top, rest, h, hne⟩
    rw [(h1 l).1] at h; rw [(h1 l).2] at hne; cases h; exact hne rfl
  · rintro ⟨-, -, l, top, rest, h, hne⟩
    rw [(h2 l).2] at hne
    rcases (h2 l).1 with e | e <;> rw [e] at h <;> cases h
    exact hne rfl

theorem witness_ComplementSelectsTheElseLanes : 7#4 < 8#4 ∧ MayIssue lastEmpty [] := ⟨by decide, mayIssue_of rfl rfl _⟩

/-- The if part of the pattern: lanes 0, 4, 8, … stay active. -/
def ifPart (s : State) : State := s.mapLanes fun l x => { x with laneFlag := x.laneFlag && l.val % 4 == 0 }

theorem witness_IfElsePatternPartitionsTheActiveLanes : ∃ s s1 s2 s3 s5 : State,
    (∀ l : LaneIx, (s.lane l).useLaneFlags = true) ∧ exec (.sfppushc 0 0) s = .next s1 ∧
    KeepsStack s1 s2 ∧ KeepsSwitch s1 s2 ∧ KeepsLaneConfig s1 s2 ∧
    (∀ l : LaneIx, (s2.lane l).laneFlag = true → (s1.lane l).laneFlag = true) ∧
    (∃ l : LaneIx, (s1.lane l).laneFlag = true ∧ (s2.lane l).laneFlag = false) ∧
    exec (.sfpcompc 0 0) s2 = .next s3 ∧ exec (.sfppopc 0 0) s3 = .next s5 := by
  refine ⟨mixedOpen, after (exec (.sfppushc 0 0) mixedOpen), ifPart (after (exec (.sfppushc 0 0) mixedOpen)), _, _, by decide +kernel,
    next_of_gives (p := fun _ => true) (by decide +kernel), ?_, ?_, ?_, by decide +kernel, ⟨2, by decide +kernel⟩,
    next_of_gives (p := fun _ => true) (by decide +kernel), next_of_gives (p := fun _ => true) (by decide +kernel)⟩
  · unfold KeepsStack; decide +kernel
  · unfold KeepsSwitch; decide +kernel
  · unfold KeepsLaneConfig; decide +kernel

end Sys2Proof.Tests
end

/-! # The state (`10_state.md`): what a completing instruction has passed and what it leaves

The instructions of the two lanewise shapes are inverted by `lanewiseTo_next` and `lanewiseFlag_next`; here the same is
said, once, of every other meaning. -/

namespace Sys2Proof.Machine

section Inversion

variable {vb vc vd : Reg} {mod0 mod1 : Mode} {addrMod : BitVec 3} {imm10 : BitVec 10} {s t : State}

theorem execSfpsetcc_next {imm1 : BitVec 1} : execSfpsetcc imm1 vc vd mod1 s = .next t ↔
    formError (.sfpsetcc imm1 vc vd mod1) = none ∧ MayIssue s [] ∧
      (s.setFlags fun l => setccFlag (s.lane l).useLaneFlags mod1 imm1 (s.lreg vc l)).retire [] = t := by
  simp only [execSfpsetcc, admitted_next, issue_next, MayIssue, Host.Outcome.next.injEq]

/-- SFPGT and SFPLE. -/
theorem compareExec_next {i : Instr} {r : LaneIx → Bool} : compareExec i vd mod1 r s = .next t ↔
    formError i = none ∧ MayIssue s [] ∧ (∀ l, (bit mod1 1 && (s.lane l).flagStack.isEmpty) = false) ∧
      (compareState vd mod1 r s).retire [] = t := by
  simp only [compareExec, admitted_next, issue_next, faultIf_next, MayIssue, Host.Outcome.next.injEq]

theorem execSfpswap_next : execSfpswap vc vd mod1 s = .next t ↔
    formError (.sfpswap vc vd mod1) = none ∧
      ((List.finRange Config.nLanes).any fun l => enableDestIndex (s.lane l).laneConfig) = false ∧
      MayIssue s (if mod1 = 0#4 then [] else [vc, vd]) ∧
      ((s.writeLanes (fun _ => vc) fun l => (swapPair mod1 (laneRow l) (s.lreg vc l) (s.lreg vd l)).1).writeLanes
        (fun _ => vd) fun l => (swapPair mod1 (laneRow l) (s.lreg vc l) (s.lreg vd l)).2).retire
        (regSet fun r => r == vc || r == vd) = t := by
  simp only [execSfpswap, admitted_next, refuseIf_next, issue_next, MayIssue, Host.Outcome.next.injEq]

theorem execSfpcast_next : execSfpcast vc vd mod1 s = .next t ↔
    formError (.sfpcast vc vd mod1) = none ∧ MayIssue s [] ∧
      (if mod1 = 1#4 then
        (s.writeLanes (fun _ => vd) fun l =>
          castLane mod1 (s.lreg vc l) (s.lane l).prng (Config.drawSign s.pos l.val)).setPrng
          fun l => Config.castRnsPrng (s.lreg vc l) (s.lane l).prng
      else s.writeLanes (fun _ => vd) fun l =>
        castLane mod1 (s.lreg vc l) (s.lane l).prng (Config.drawSign s.pos l.val)).retire [] = t := by
  simp only [execSfpcast, admitted_next, issue_next, MayIssue, Host.Outcome.next.injEq]

theorem execSfpstochrnd_next {mode : BitVec 2} {imm5 : BitVec 5} {mod1 : BitVec 3} {useImm5 : BitVec 1} :
    execSfpstochrnd mode imm5 vb vc vd mod1 useImm5 s = .next t ↔
    formError (.sfpstochrnd mode imm5 vb vc vd mod1 useImm5) = none ∧ MayIssue s [] ∧
      (if mode = 1#2 then
        (s.writeLanes (fun _ => vd) fun l => stochRndLane mod1 mode (s.lreg vc l) (rndShift imm5 useImm5 (s.lreg vb l))
          (s.lane l).prng (Config.drawSign s.pos l.val)).setPrng
          fun l => Config.stochRndPrng mod1 (s.lreg vc l)
            (discardedBits mod1 (s.lreg vc l) (rndShift imm5 useImm5 (s.lreg vb l))) (s.lane l).prng
      else s.writeLanes (fun _ => vd) fun l => stochRndLane mod1 mode (s.lreg vc l)
        (rndShift imm5 useImm5 (s.lreg vb l)) (s.lane l).prng (Config.drawSign s.pos l.val)).retire
        (pendingDst false vd) = t := by
  simp only [execSfpstochrnd, admitted_next, issue_next, MayIssue, Host.Outcome.next.injEq]

theorem execSfpmov_next : execSfpmov vc vd mod1 s = .next t ↔
    formError (.sfpmov vc vd mod1) = none ∧ MayIssue s [] ∧
      (if bit mod1 3 && vc = 9#4 then
        (s.writeLanesIf (fun l => laneEnabled s l || mod1 = 2#4) (fun _ => vd) (movValue s vc mod1)).setPrng
          fun l => advancePrng (s.lane l).prng
      else s.writeLanesIf (fun l => laneEnabled s l || mod1 = 2#4) (fun _ => vd) (movValue s vc mod1)).retire [] =
        t := by
  simp only [execSfpmov, admitted_next, issue_next, MayIssue, Host.Outcome.next.injEq]

theorem execSfpshft2_next {x : BitVec 12} : execSfpshft2 x vc vd mod1 s = .next t ↔
    formError (.sfpshft2 x vc vd mod1) = none ∧ MayIssue s (shft2Reads x vc mod1) ∧
      ((shft2State x vc vd mod1 s).retire (shft2Pending vd mod1)).requireNop
        (mod1 = 2#4 || mod1 = 3#4 || mod1 = 4#4) = t := by
  simp only [execSfpshft2, admitted_next, issue_next, MayIssue, Host.Outcome.next.injEq]

/-- SFPLOAD completes without effect for VD 8 to 15; else every enabled lane reaches a cell that holds a value. -/
theorem execSfpload_next : execSfpload vd mod0 addrMod imm10 s = .next t ↔
    formError (.sfpload vd mod0 addrMod imm10) = none ∧ MayIssue s [] ∧
      (isGpr vd = false ∧ s.retire [] = t ∨
      isGpr vd = true ∧
        (∀ l, (laneEnabled s l && !beyondView (loads32 (resolveMode s mod0)) (destAddr s imm10) l &&
          (loadValue s vd (resolveMode s mod0) (destAddr s imm10) l).isNone) = false) ∧
        (∀ l, (laneEnabled s l && beyondView (loads32 (resolveMode s mod0)) (destAddr s imm10) l) = false) ∧
        ((s.writeLanes (fun _ => vd) fun l =>
          (loadValue s vd (resolveMode s mod0) (destAddr s imm10) l).getD 0#32).applyAddrMod addrMod).retire [] =
          t) := by
  simp only [execSfpload, admitted_next, issue_next, MayIssue]
  cases isGpr vd <;> simp [faultIf_next]

theorem execSfpstore_next : execSfpstore vd mod0 addrMod imm10 s = .next t ↔
    formError (.sfpstore vd mod0 addrMod imm10) = none ∧
      (!isGpr vd && (List.finRange Config.nLanes).any fun l => !disableBackdoorLoad (s.lane l).laneConfig) = false ∧
      MayIssue s [] ∧
      (∀ l, (laneEnabled s l && beyondView (stores32 (resolveMode s mod0)) (destAddr s imm10) l) = false) ∧
      ({ s with dest := storeLanes s (resolveMode s mod0) (destAddr s imm10) vd }.applyAddrMod addrMod).retire [] =
        t := by
  simp only [execSfpstore, admitted_next, refuseIf_next, issue_next, faultIf_next, MayIssue, Host.Outcome.next.injEq]

theorem execSfpencc_next {imm2 : BitVec 2} : execSfpencc imm2 vd mod1 s = .next t ↔
    formError (.sfpencc imm2 vd mod1) = none ∧ MayIssue s [] ∧
      (s.mapLanes fun l lane => if laneEnabled s l then enccLane imm2 mod1 lane else lane).retire [] = t := by
  simp only [execSfpencc, admitted_next, issue_next, MayIssue, Host.Outcome.next.injEq]

theorem execSfppushc_next : execSfppushc vd mod1 s = .next t ↔
    formError (.sfppushc vd mod1) = none ∧ MayIssue s [] ∧
      (∀ l, (mod1 = 0#4 && Config.stackDepth ≤ (s.lane l).flagStack.length) = false) ∧
      (∀ l, (mod1 ≠ 0#4 && (s.lane l).flagStack.isEmpty) = false) ∧
      (s.mapLanes fun _ lane => pushLane mod1 lane).retire [] = t := by
  simp only [execSfppushc, admitted_next, issue_next, faultIf_next, MayIssue, Host.Outcome.next.injEq]

theorem execSfppopc_next : execSfppopc vd mod1 s = .next t ↔
    formError (.sfppopc vd mod1) = none ∧
      (mod1 ≠ 0#4 && mod1 < 13#4 && (List.finRange Config.nLanes).any fun l =>
        (s.lane l).flagStack.head?.any fun top => top.useLaneFlags ≠ (s.lane l).useLaneFlags) = false ∧
      MayIssue s [] ∧ (∀ l, (mod1 < 13#4 && (s.lane l).flagStack.isEmpty) = false) ∧
      (s.mapLanes fun _ lane => popLane mod1 lane).retire [] = t := by
  simp only [execSfppopc, admitted_next, refuseIf_next, issue_next, faultIf_next, MayIssue, Host.Outcome.next.injEq]

theorem execSfpcompc_next : execSfpcompc vd mod1 s = .next t ↔
    formError (.sfpcompc vd mod1) = none ∧ MayIssue s [] ∧ (s.mapLanes fun _ lane => compLane lane).retire [] = t := by
  simp only [execSfpcompc, admitted_next, issue_next, MayIssue, Host.Outcome.next.injEq]

theorem execSfpconfig_next {imm16 : BitVec 16} : execSfpconfig imm16 vd mod1 s = .next t ↔
    formError (.sfpconfig imm16 vd mod1) = none ∧
      ((List.finRange Config.nLanes).any fun l => !laneEnabled s l) = false ∧
      MayIssue s (if configUsesImm vd mod1 then [] else [0#4]) ∧
      ((configState imm16 vd mod1 s).retire []).requireNop
        (vd = 15#4 && (List.finRange Config.nLanes).any fun l =>
          ((configState imm16 vd mod1 s).lane l).laneConfig ≠ (s.lane l).laneConfig) = t := by
  simp only [execSfpconfig, admitted_next, refuseIf_next, issue_next, MayIssue, Host.Outcome.next.injEq]

end Inversion

end Sys2Proof.Machine

/-! # What an instruction may do to one lane (R11 to R27) -/

namespace Sys2Proof.Machine

/-- `WriteLReg` reaches `LReg[0..7]` alone (R16). -/
theorem Lane.write_eq_withGpr (lane : Lane) (i : Reg) (v : Word) :
    lane.write i v = { lane with gpr := (lane.write i v).gpr } := by
  unfold Lane.write; split <;> rfl

/-- SFPPUSHC reaches the flag and the stack alone (R222). -/
theorem pushLane_eq_withFlags (mod1 : Mode) (lane : Lane) : pushLane mod1 lane =
    { lane with laneFlag := (pushLane mod1 lane).laneFlag, flagStack := (pushLane mod1 lane).flagStack } := by
  unfold pushLane; split
  · rfl
  · split
    · rfl
    · split_ifs <;> rfl

/-- SFPPOPC reaches the flag, the enable switch and the stack alone (R223). -/
theorem popLane_eq_withFlags (mod1 : Mode) (lane : Lane) : popLane mod1 lane =
    { lane with
      laneFlag := (popLane mod1 lane).laneFlag
      useLaneFlags := (popLane mod1 lane).useLaneFlags
      flagStack := (popLane mod1 lane).flagStack } := by
  unfold popLane; split_ifs
  · rfl
  · rfl
  · rfl
  · split <;> rfl
  · split <;> rfl

/-- Only three modes of SFPPOPC write the enable switch (R223). -/
theorem popLane_useLaneFlags {mod1 : Mode} (lane : Lane) (h : ¬(mod1 = 0#4 ∨ mod1 = 14#4 ∨ mod1 = 15#4)) :
    (popLane mod1 lane).useLaneFlags = lane.useLaneFlags := by
  obtain ⟨h0, h14, h15⟩ := not_or.1 h |>.imp_right not_or.1
  unfold popLane
  simp only [h0, h14, h15, if_false]
  split
  · rfl
  · split <;> rfl

/-- Only mode 0 of SFPPOPC pops (R223). -/
theorem popLane_flagStack {mod1 : Mode} (lane : Lane) :
    (popLane mod1 lane).flagStack = if mod1 = 0#4 then lane.flagStack.tail else lane.flagStack := by
  unfold popLane
  by_cases h : mod1 = 0#4
  · subst h; cases hs : lane.flagStack <;> simp [hs]
  · simp only [h, if_false]
    split_ifs
    · rfl
    · rfl
    · rfl
    · split <;> rfl

/-- Only mode 0 of SFPPUSHC pushes; the other modes replace the top (R222). -/
theorem pushLane_flagStack_length (mod1 : Mode) (lane : Lane) : (pushLane mod1 lane).flagStack.length =
    if mod1 = 0#4 then lane.flagStack.length + 1 else lane.flagStack.length := by
  unfold pushLane
  split
  · rfl
  · split
    · rfl
    · next h => split_ifs <;> simp [h]

@[simp] theorem mutateTop_length (useOr r : Bool) (stack : List FlagEntry) :
    (mutateTop useOr r stack).length = stack.length := by
  cases stack <;> rfl

/-- SFPCONFIG reaches the programmable constants, `LoadMacroConfig` and `LaneConfig` alone (R205). -/
theorem configLane_eq_withConfig (vd : Reg) (mod1 : Mode) (val : Word) (lane : Lane) : configLane vd mod1 val lane =
    { lane with
      prg := (configLane vd mod1 val lane).prg
      laneConfig := (configLane vd mod1 val lane).laneConfig
      lmc := (configLane vd mod1 val lane).lmc } := by
  unfold configLane
  extract_lets n
  split_ifs <;> rfl

/-- Two lanes hold the same in what SFPCONFIG alone writes (R13, R25, R26). -/
structure SameStorage (x y : Lane) : Prop where
  laneConfig : x.laneConfig = y.laneConfig
  prg : x.prg = y.prg
  lmc : x.lmc = y.lmc

/-- The same write of SFPCONFIG keeps the storage of two lanes equal. -/
theorem SameStorage.configLane {x y : Lane} (h : SameStorage x y) (vd : Reg) (mod1 : Mode) (val : Word) :
    SameStorage (configLane vd mod1 val x) (configLane vd mod1 val y) := by
  obtain ⟨hc, hp, hm⟩ := h
  cases x; cases y; cases hc; cases hp; cases hm
  unfold Machine.configLane
  extract_lets n
  split_ifs <;> exact ⟨rfl, rfl, rfl⟩

/-- `LReg[8..15]` is made of the programmable constants (R12, R13). -/
theorem Lane.lreg_of_prg_eq {x y : Lane} (l : LaneIx) {r : Reg} (hr : 8#4 ≤ r) (h : x.prg = y.prg) :
    x.lreg l r = y.lreg l r := by
  have hn : ¬r.toNat < Config.nGpr := Nat.not_lt.2 (BitVec.le_def.1 hr)
  simp only [Lane.lreg, hn, dite_false, h]

/-- What the instruction `i` may make of a lane `x` that is enabled exactly if `en` holds: the updates that the spec
gives it, each with the condition under which `i` makes it. SFPENCC and SFPCONFIG act in enabled lanes; SFPPUSHC,
SFPPOPC, SFPCOMPC and the stack updates of SFPGT and SFPLE in all (R24). -/
inductive LaneEffect (i : Instr) (en : Bool) (x : Lane) : Lane → Prop
  | done : LaneEffect i en x x
  | regs {y : Lane} (g : Vector Word Config.nGpr) (hen : en = true ∨ ∃ vc vd, i = .sfpmov vc vd 2#4)
      (h : LaneEffect i en x y) : LaneEffect i en x { y with gpr := g }
  | flag {y : Lane} (b : Bool) (hen : en = true) (hw : writesFlags i) (h : LaneEffect i en x y) :
      LaneEffect i en x { y with laneFlag := b }
  | prng {y : Lane} (w : Word) (hen : en = true) (hw : writesPrng i) (h : LaneEffect i en x y) :
      LaneEffect i en x { y with prng := w }
  | mutate {vc vd : Reg} {mod1 : Mode} (useOr r : Bool) (hi : i = .sfpgt vc vd mod1 ∨ i = .sfple vc vd mod1)
      (hm : mod1.getLsbD 1 = true) : LaneEffect i en x { x with flagStack := mutateTop useOr r x.flagStack }
  | encc {imm2 : BitVec 2} {vd : Reg} {mod1 : Mode} (hi : i = .sfpencc imm2 vd mod1) (hen : en = true) :
      LaneEffect i en x (enccLane imm2 mod1 x)
  | push {vd : Reg} {mod1 : Mode} (hi : i = .sfppushc vd mod1) : LaneEffect i en x (pushLane mod1 x)
  | pop {vd : Reg} {mod1 : Mode} (hi : i = .sfppopc vd mod1) : LaneEffect i en x (popLane mod1 x)
  | comp {vd : Reg} {mod1 : Mode} (hi : i = .sfpcompc vd mod1) : LaneEffect i en x (compLane x)
  | config {imm16 : BitVec 16} {vd : Reg} {mod1 : Mode} (val : Word) (hi : i = .sfpconfig imm16 vd mod1)
      (hen : en = true) : LaneEffect i en x (configLane vd mod1 val x)

/-- Each field of a lane is as before unless the instruction is one of its writers (R13, R14, R20 to R27). -/
structure LaneFrame (i : Instr) (x y : Lane) : Prop where
  r16 : y.r16 = x.r16
  storage : ¬isConfig i → SameStorage y x
  prng : ¬writesPrng i → y.prng = x.prng
  switch : ¬writesSwitch i → y.useLaneFlags = x.useLaneFlags
  stack : ¬writesStack i → y.flagStack = x.flagStack
  flag : ¬writesFlags i → y.laneFlag = x.laneFlag

namespace LaneEffect

variable {i : Instr} {en : Bool} {x y : Lane}

theorem write (r : Reg) (v : Word) (hen : en = true ∨ ∃ vc vd, i = .sfpmov vc vd 2#4) (h : LaneEffect i en x y) :
    LaneEffect i en x (y.write r v) := by
  rw [Lane.write_eq_withGpr]; exact h.regs _ hen

/-- What an instruction does to a lane respects the writers of each field. -/
theorem frame (h : LaneEffect i en x y) : LaneFrame i x y := by
  induction h with
  | done => exact ⟨rfl, fun _ => ⟨rfl, rfl, rfl⟩, fun _ => rfl, fun _ => rfl, fun _ => rfl, fun _ => rfl⟩
  | regs g _ _ ih => exact ⟨ih.r16, fun hn => { ih.storage hn with }, ih.prng, ih.switch, ih.stack, ih.flag⟩
  | flag b _ hw _ ih =>
    exact ⟨ih.r16, fun hn => { ih.storage hn with }, ih.prng, ih.switch, ih.stack, fun hn => absurd hw hn⟩
  | prng w _ hw _ ih =>
    exact ⟨ih.r16, fun hn => { ih.storage hn with }, fun hn => absurd hw hn, ih.switch, ih.stack, ih.flag⟩
  | mutate useOr r hi hm =>
    have hw : writesStack i := by rcases hi with rfl | rfl <;> exact hm
    exact ⟨rfl, fun _ => ⟨rfl, rfl, rfl⟩, fun _ => rfl, fun _ => rfl, fun hn => absurd hw hn, fun _ => rfl⟩
  | encc hi =>
    subst hi
    exact ⟨rfl, fun _ => ⟨rfl, rfl, rfl⟩, fun _ => rfl, fun hn => absurd trivial hn, fun _ => rfl,
      fun hn => absurd trivial hn⟩
  | push hi =>
    subst hi; rw [pushLane_eq_withFlags]
    exact ⟨rfl, fun _ => ⟨rfl, rfl, rfl⟩, fun _ => rfl, fun _ => rfl, fun hn => absurd trivial hn,
      fun hn => absurd trivial hn⟩
  | pop hi =>
    subst hi
    rw [popLane_eq_withFlags]
    exact ⟨rfl, fun _ => ⟨rfl, rfl, rfl⟩, fun _ => rfl, popLane_useLaneFlags x,
      fun hn => (popLane_flagStack x).trans (if_neg hn), fun hn => absurd trivial hn⟩
  | comp hi =>
    subst hi
    exact ⟨rfl, fun _ => ⟨rfl, rfl, rfl⟩, fun _ => rfl, fun _ => rfl, fun _ => rfl, fun hn => absurd trivial hn⟩
  | config val hi =>
    subst hi; rw [configLane_eq_withConfig]
    exact ⟨rfl, fun hn => absurd trivial hn, fun _ => rfl, fun _ => rfl, fun _ => rfl, fun _ => rfl⟩

/-- Only SFPPUSHC and SFPPOPC change the depth of a stack (R22). -/
theorem depth (h : LaneEffect i en x y) (hpush : ∀ vd mod1, i ≠ .sfppushc vd mod1)
    (hpop : ∀ vd mod1, i ≠ .sfppopc vd mod1) : y.flagStack.length = x.flagStack.length := by
  induction h with
  | done | encc | comp => rfl
  | regs _ _ _ ih | flag _ _ _ _ ih | prng _ _ _ _ ih => exact ih
  | mutate => exact mutateTop_length ..
  | push hi => exact absurd hi (hpush _ _)
  | pop hi => exact absurd hi (hpop _ _)
  | config => rw [configLane_eq_withConfig]

/-- A disabled lane stays as it is, but for the exceptions of R24. -/
theorem eq_of_disabled (h : LaneEffect i false x y) (hi : ¬actsWhenDisabled i) : y = x := by
  induction h with
  | done => rfl
  | regs g hen =>
    obtain ⟨vc, vd, rfl⟩ := hen.resolve_left Bool.false_ne_true
    exact absurd rfl hi
  | flag _ hen | prng _ hen | encc _ hen | config _ _ hen => cases hen
  | mutate _ _ h hm => rcases h with rfl | rfl <;> exact absurd hm hi
  | push h | pop h | comp h => subst h; exact absurd trivial hi

/-- SFPGT and SFPLE reach only the stack of a disabled lane (R24, R172). -/
theorem eq_of_disabled_compare {vc vd : Reg} {mod1 : Mode} (h : LaneEffect i false x y)
    (hi : i = .sfpgt vc vd mod1 ∨ i = .sfple vc vd mod1) : y = { x with flagStack := y.flagStack } := by
  induction h with
  | done | mutate => rfl
  | regs g hen =>
    obtain ⟨vc, vd, rfl⟩ := hen.resolve_left Bool.false_ne_true
    rcases hi with hi | hi <;> cases hi
  | flag _ hen | prng _ hen | encc _ hen | config _ _ hen => cases hen
  | push h | pop h | comp h => subst h; rcases hi with hi | hi <;> cases hi

/-- SFPMOV reaches only the general registers of a disabled lane (R24, R200). -/
theorem eq_of_disabled_mov {vc vd : Reg} {mod1 : Mode} (h : LaneEffect i false x y) (hi : i = .sfpmov vc vd mod1) :
    y = { x with gpr := y.gpr } := by
  subst hi
  induction h with
  | done => rfl
  | regs g _ _ ih => exact congrArg (fun z : Lane => { z with gpr := g }) ih
  | flag _ hen | prng _ hen | encc _ hen | config _ _ hen => cases hen
  | mutate _ _ h => rcases h with h | h <;> cases h
  | push h | pop h | comp h => cases h

end LaneEffect

end Sys2Proof.Machine

/-! # What a completing instruction does to the state -/

namespace Sys2Proof.Machine

/-- What makes `u` an update of `s` that the instruction `i` may make before it retires: in every lane an effect of
`i`, and outside the lanes nothing but Dest and the Tensix inputs, for the accesses (R16, R24, R45, R251). -/
structure Updates (i : Instr) (s u : State) : Prop where
  lanes : ∀ l, LaneEffect i (laneEnabled s l) (s.lane l) (u.lane l)
  program : u.program = s.program
  thread : u.thread = s.thread
  overlay : u.overlay = s.overlay
  pos : u.pos = s.pos
  tensix : ¬isAccess i → u.tensix = s.tensix
  dest : ¬isStore i → u.dest = s.dest

/-- `p` is the pending set that R263 gives the instruction `i`, as a rising list. -/
def Pends (i : Instr) (p : List Reg) : Prop :=
  ∃ q : Reg → Bool, p = regSet q ∧ ∀ r, q r = true ↔ leavesPending i r

/-- What a completed instruction `i` has made of `s`: a permitted update, `pos` one further, the pending set of R263 and
the demand for an SFPNOP of R268 and R269. -/
structure Effect (i : Instr) (s t : State) : Prop where
  lanes : ∀ l, LaneEffect i (laneEnabled s l) (s.lane l) (t.lane l)
  program : t.program = s.program
  thread : t.thread = s.thread
  overlay : t.overlay = s.overlay
  tensix : ¬isAccess i → t.tensix = s.tensix
  dest : ¬isStore i → t.dest = s.dest
  pos : t.pos = s.pos + 1
  pending : Pends i t.pending
  nop : t.nopRequired = true ↔ demandsNop i s t

/-! ## Pending sets -/

theorem mem_regSet {q : Reg → Bool} {r : Reg} : r ∈ regSet q ↔ r < 8#4 ∧ q r = true := by
  have hr : r ∈ ([0, 1, 2, 3, 4, 5, 6, 7] : List Reg) ↔ r < 8#4 := by revert r; decide
  rw [regSet_eq, List.mem_filter, hr]

/-- A register set is determined by its members, as R263 asks of `pending`. -/
theorem regSet_contains (q : Reg → Bool) : regSet (fun r => (regSet q).contains r) = regSet q := by
  refine List.filter_congr fun r hr => ?_
  have h8 : r < 8#4 := (mem_regSet (q := fun _ => true)).1 (by simpa [regSet] using hr) |>.1
  rw [Bool.eq_iff_iff, List.contains_iff_mem, mem_regSet, and_iff_right h8]

section Pending

variable {i : Instr} {p : List Reg}

theorem pends_nil (h : ∀ r, ¬leavesPending i r) : Pends i [] :=
  ⟨fun _ => false, by rw [regSet_eq]; rfl, fun r => by simp [h r]⟩

theorem pends_pendingDst {indirect : Bool} {vd : Reg} (h : ∀ r, leavesPending i r ↔ indirect = true ∨ r = vd) :
    Pends i (pendingDst indirect vd) :=
  ⟨_, rfl, fun r => by simp [h r]⟩

theorem Pends.mem_iff (h : Pends i p) (r : Reg) : r ∈ p ↔ r < 8#4 ∧ leavesPending i r := by
  obtain ⟨q, rfl, hq⟩ := h
  rw [mem_regSet, hq]

theorem Pends.eq_regSet (h : Pends i p) : p = regSet fun r => p.contains r := by
  obtain ⟨q, rfl, -⟩ := h
  exact (regSet_contains q).symm

end Pending

/-! ## The updates of an instruction -/

namespace Updates

variable {i : Instr} {s u : State}

theorem refl : Updates i s s := ⟨fun _ => .done, rfl, rfl, rfl, rfl, fun _ => rfl, fun _ => rfl⟩

/-- An update of the lanes alone. -/
theorem mapLanes {f : LaneIx → Lane → Lane} (h : Updates i s u)
    (hf : ∀ l, LaneEffect i (laneEnabled s l) (s.lane l) (f l (u.lane l))) : Updates i s (u.mapLanes f) where
  lanes l := by simpa using hf l
  program := by simpa using h.program
  thread := by simpa using h.thread
  overlay := by simpa using h.overlay
  pos := by simpa using h.pos
  tensix := by simpa using h.tensix
  dest := by simpa using h.dest

theorem writeLanesIf {en : LaneIx → Bool} {dst : LaneIx → Reg} {val : LaneIx → Word} (h : Updates i s u)
    (hen : ∀ l, en l = true → laneEnabled s l = true ∨ ∃ vc vd, i = .sfpmov vc vd 2#4) :
    Updates i s (u.writeLanesIf en dst val) := by
  refine h.mapLanes fun l => ?_
  split
  · next he => exact (h.lanes l).write _ _ (hen l he)
  · exact h.lanes l

theorem writeLanes {dst : LaneIx → Reg} {val : LaneIx → Word} (h : Updates i s u)
    (hen : ∀ l, laneEnabled u l = laneEnabled s l) : Updates i s (u.writeLanes dst val) :=
  h.writeLanesIf fun l hl => .inl (hen l ▸ hl)

theorem setFlags {flag : LaneIx → Bool} (h : Updates i s u) (hen : ∀ l, laneEnabled u l = laneEnabled s l)
    (hw : writesFlags i) : Updates i s (u.setFlags flag) := by
  refine h.mapLanes fun l => ?_
  split
  · next he =>
    have he : laneEnabled s l = true := by simpa [hen, Config.flagsUpdateWhenDisabled] using he
    exact (h.lanes l).flag _ he hw
  · exact h.lanes l

theorem setPrng {prng : LaneIx → Word} (h : Updates i s u) (hen : ∀ l, laneEnabled u l = laneEnabled s l)
    (hw : writesPrng i) : Updates i s (u.setPrng prng) := by
  refine h.mapLanes fun l => ?_
  split
  · next he => exact (h.lanes l).prng _ (hen l ▸ he) hw
  · exact h.lanes l

theorem applyAddrMod (h : Updates i s u) (m : BitVec 3) (ha : isAccess i) : Updates i s (u.applyAddrMod m) :=
  ⟨h.lanes, h.program, h.thread, h.overlay, h.pos, fun hn => absurd ha hn, h.dest⟩

theorem withDest (h : Updates i s u) (m : Memory) (hs : isStore i) : Updates i s { u with dest := m } :=
  ⟨h.lanes, h.program, h.thread, h.overlay, h.pos, h.tensix, fun hn => absurd hs hn⟩

/-- The copies of SFPSHFT2 modes 0 to 2 (R157). -/
theorem copy4 (new3 : LaneIx → Word) : Updates i s (copy4 s new3) := by
  unfold Machine.copy4
  refine (((refl.writeLanes ?_).writeLanes ?_).writeLanes ?_).writeLanes ?_ <;> intro l <;>
    simp only [laneEnabled_writeLanes]

theorem shft2State {x : BitVec 12} {vc vd : Reg} {mod1 : Mode} : Updates i s (shft2State x vc vd mod1 s) := by
  unfold Machine.shft2State
  extract_lets b
  split_ifs
  · exact copy4 _
  · exact copy4 _
  · exact copy4 _
  all_goals exact refl.writeLanes fun _ => rfl

/-- What SFPGT and SFPLE do, in the order stack, register, flag (R172). -/
theorem compareState {vc vd : Reg} {mod1 : Mode} {r : LaneIx → Bool}
    (hi : i = .sfpgt vc vd mod1 ∨ i = .sfple vc vd mod1) : Updates i s (compareState vd mod1 r s) := by
  have hw : writesFlags i := by rcases hi with rfl | rfl <;> trivial
  unfold Machine.compareState
  extract_lets t1 t2
  obtain ⟨h1, e1⟩ : Updates i s t1 ∧ ∀ l, laneEnabled t1 l = laneEnabled s l := by
    simp only [t1]; split
    · next hm =>
      exact ⟨refl.mapLanes fun l => .mutate _ _ hi hm, fun l => laneEnabled_congr (by simp) (by simp) (by simp)⟩
    · exact ⟨refl, fun _ => rfl⟩
  obtain ⟨h2, e2⟩ : Updates i s t2 ∧ ∀ l, laneEnabled t2 l = laneEnabled s l := by
    simp only [t2]; split
    · exact ⟨h1.writeLanes e1, fun l => (laneEnabled_writeLanes ..).trans (e1 l)⟩
    · exact ⟨h1, e1⟩
  split
  · exact h2.setFlags e2 hw
  · exact h2

/-- The end of an instruction that may demand an SFPNOP. -/
theorem retire_requireNop {p : List Reg} {b : Bool} (h : Updates i s u) (hp : Pends i p)
    (hn : b = true ↔ demandsNop i s ((u.retire p).requireNop b)) : Effect i s ((u.retire p).requireNop b) :=
  ⟨h.lanes, h.program, h.thread, h.overlay, h.tensix, h.dest, congrArg (· + 1) h.pos, hp, hn⟩

theorem retire {p : List Reg} (h : Updates i s u) (hp : Pends i p) (hn : ∀ t, ¬demandsNop i s t) :
    Effect i s (u.retire p) :=
  h.retire_requireNop (b := false) hp (by simp [hn])

end Updates

/-! ## The effect of every instruction -/

section Effects

variable {i : Instr} {reads : List Reg} {s t : State}

theorem effect_of_lanewiseTo {dst : LaneIx → Reg} {val : LaneIx → Word} {p : List Reg}
    (h : lanewiseTo i reads s dst val p = .next t) (hp : Pends i p) (hn : ∀ t, ¬demandsNop i s t) : Effect i s t := by
  obtain ⟨-, -, rfl⟩ := lanewiseTo_next.1 h
  exact (Updates.refl.writeLanes fun _ => rfl).retire hp hn

theorem effect_of_lanewiseFlag {vd : Reg} {val : LaneIx → Word} {sets : Bool} {flag : LaneIx → Bool}
    (h : lanewiseFlag i reads s vd val sets flag = .next t) (hw : writesFlags i) (hp : ∀ r, ¬leavesPending i r)
    (hn : ∀ t, ¬demandsNop i s t) : Effect i s t := by
  obtain ⟨-, -, rfl⟩ := lanewiseFlag_next.1 h
  have hu : Updates i s (s.writeLanes (fun _ => vd) val) := Updates.refl.writeLanes fun _ => rfl
  refine Updates.retire ?_ (pends_nil hp) hn
  split
  · exact hu.setFlags (laneEnabled_writeLanes s _ _) hw
  · exact hu

theorem effect_of_compareExec {vc vd : Reg} {mod1 : Mode} {r : LaneIx → Bool}
    (h : compareExec i vd mod1 r s = .next t) (hi : i = .sfpgt vc vd mod1 ∨ i = .sfple vc vd mod1) :
    Effect i s t := by
  obtain ⟨-, -, -, rfl⟩ := compareExec_next.1 h
  refine (Updates.compareState hi).retire (pends_nil fun r => ?_) fun t => ?_ <;> rcases hi with rfl | rfl <;> exact id

/-- Registers of the enabled lanes, then their PRNG where `b` holds: SFPCAST and SFPSTOCHRND. -/
theorem updates_writeLanes_setPrng {b : Prop} [Decidable b] {dst : LaneIx → Reg} {val prng : LaneIx → Word}
    (hw : b → writesPrng i) :
    Updates i s (if b then (s.writeLanes dst val).setPrng prng else s.writeLanes dst val) := by
  have hu : Updates i s (s.writeLanes dst val) := Updates.refl.writeLanes fun _ => rfl
  split
  · next hb => exact hu.setPrng (laneEnabled_writeLanes s _ _) (hw hb)
  · exact hu

theorem effect_of_execSfpmov {vc vd : Reg} {mod1 : Mode} (h : execSfpmov vc vd mod1 s = .next t) :
    Effect (.sfpmov vc vd mod1) s t := by
  obtain ⟨-, -, rfl⟩ := execSfpmov_next.1 h
  have hu : Updates (.sfpmov vc vd mod1) s
      (s.writeLanesIf (fun l => laneEnabled s l || mod1 = 2#4) (fun _ => vd) (movValue s vc mod1)) := by
    refine Updates.refl.writeLanesIf fun l hl => ?_
    simp only [Bool.or_eq_true, decide_eq_true_eq] at hl
    exact hl.imp_right fun h => ⟨vc, vd, by rw [h]⟩
  refine Updates.retire ?_ (pends_nil fun _ => id) fun _ => id
  split
  · next hb =>
    have hw : writesPrng (.sfpmov vc vd mod1) := by simpa [bit, writesPrng] using hb
    exact hu.setPrng (laneEnabled_writeLanesIf s _ _ _) hw
  · exact hu

theorem effect_of_execSfpshft2 {x : BitVec 12} {vc vd : Reg} {mod1 : Mode}
    (h : execSfpshft2 x vc vd mod1 s = .next t) : Effect (.sfpshft2 x vc vd mod1) s t := by
  obtain ⟨-, -, rfl⟩ := execSfpshft2_next.1 h
  refine Updates.shft2State.retire_requireNop ⟨_, rfl, fun r => ?_⟩ (by simp [demandsNop, or_assoc])
  by_cases h2 : mod1 = 2#4 <;> simp [leavesPending, h2]

theorem effect_of_execSfpload {vd : Reg} {mod0 : Mode} {addrMod : BitVec 3} {imm10 : BitVec 10}
    (h : execSfpload vd mod0 addrMod imm10 s = .next t) : Effect (.sfpload vd mod0 addrMod imm10) s t := by
  obtain ⟨-, -, ⟨-, rfl⟩ | ⟨-, -, -, rfl⟩⟩ := execSfpload_next.1 h
  · exact Updates.refl.retire (pends_nil fun _ => id) fun _ => id
  · exact Updates.retire (.applyAddrMod (.writeLanes .refl fun _ => rfl) _ trivial) (pends_nil fun _ => id) fun _ => id

theorem effect_of_execSfpconfig {imm16 : BitVec 16} {vd : Reg} {mod1 : Mode}
    (h : execSfpconfig imm16 vd mod1 s = .next t) : Effect (.sfpconfig imm16 vd mod1) s t := by
  obtain ⟨-, hen, -, rfl⟩ := execSfpconfig_next.1 h
  have hen : ∀ l, laneEnabled s l = true := by simpa using hen
  refine (Updates.refl.mapLanes fun l => .config _ rfl (hen l)).retire_requireNop (pends_nil fun _ => id) ?_
  simp [demandsNop, configState]

/-- Every instruction that completes has the effect that the spec gives it. -/
theorem exec_effect (h : exec i s = .next t) : Effect i s t := by
  cases i with
  | sfploadi | sfpdivp2 | sfpexman | sfpshft | sfpabs | sfpand | sfpor | sfpnot | sfpsetexp | sfpsetman | sfpsetsgn
  | sfpxor | sfparecip => exact effect_of_lanewiseTo h (pends_nil fun _ => id) fun _ => id
  | sfpmuli | sfpaddi | sfpmad | sfpadd | sfpmul | sfplutfp32 | sfpmul24 =>
    exact effect_of_lanewiseTo h (pends_pendingDst fun _ => Iff.rfl) fun _ => id
  | sfpexexp | sfpiadd | sfplz => exact effect_of_lanewiseFlag h trivial (fun _ => id) fun _ => id
  | sfpgt => exact effect_of_compareExec h (.inl rfl)
  | sfple => exact effect_of_compareExec h (.inr rfl)
  | sfpmov => exact effect_of_execSfpmov h
  | sfpshft2 => exact effect_of_execSfpshft2 h
  | sfpload => exact effect_of_execSfpload h
  | sfpconfig => exact effect_of_execSfpconfig h
  | sfpstore =>
    obtain ⟨-, -, -, -, rfl⟩ := execSfpstore_next.1 h
    exact Updates.retire (.applyAddrMod (.withDest .refl _ (by trivial)) _ trivial) (pends_nil fun _ => id) fun _ => id
  | sfpsetcc =>
    obtain ⟨-, -, rfl⟩ := execSfpsetcc_next.1 h
    exact Updates.retire (.setFlags .refl (fun _ => rfl) trivial) (pends_nil fun _ => id) fun _ => id
  | sfpcast =>
    obtain ⟨-, -, rfl⟩ := execSfpcast_next.1 h
    exact Updates.retire (updates_writeLanes_setPrng id) (pends_nil fun _ => id) fun _ => id
  | sfpstochrnd =>
    obtain ⟨-, -, rfl⟩ := execSfpstochrnd_next.1 h
    exact Updates.retire (updates_writeLanes_setPrng id) (pends_pendingDst fun _ => by simp [leavesPending]) fun _ => id
  | sfpswap =>
    obtain ⟨-, -, -, rfl⟩ := execSfpswap_next.1 h
    exact ((Updates.refl.writeLanes fun _ => rfl).writeLanes (laneEnabled_writeLanes s _ _)).retire
      ⟨_, rfl, fun _ => by simp [leavesPending]⟩ fun _ => id
  | sfpencc =>
    obtain ⟨-, -, rfl⟩ := execSfpencc_next.1 h
    refine (Updates.refl.mapLanes fun l => ?_).retire (pends_nil fun _ => id) fun _ => id
    split
    · next hl => exact .encc rfl hl
    · exact .done
  | sfppushc =>
    obtain ⟨-, -, -, -, rfl⟩ := execSfppushc_next.1 h
    exact (Updates.refl.mapLanes fun _ => .push rfl).retire (pends_nil fun _ => id) fun _ => id
  | sfppopc =>
    obtain ⟨-, -, -, -, rfl⟩ := execSfppopc_next.1 h
    exact (Updates.refl.mapLanes fun _ => .pop rfl).retire (pends_nil fun _ => id) fun _ => id
  | sfpcompc =>
    obtain ⟨-, -, rfl⟩ := execSfpcompc_next.1 h
    exact (Updates.refl.mapLanes fun _ => .comp rfl).retire (pends_nil fun _ => id) fun _ => id
  | sfpnop =>
    cases h
    exact Updates.refl.retire (pends_nil fun _ => id) fun _ => id
  | sfptransp | sfploadmacro => cases h

end Effects

end Sys2Proof.Machine

/-! # One lane of two runs (R17, R23): what an instruction leaves in a lane follows from that lane alone -/

namespace Sys2Proof.Machine

/-- The two states agree on what an instruction sees of lane `l`: the lane, the `LaneConfig` of its column, and `pos`,
on which the free draws depend (log entry 30). -/
structure SameLane (l : LaneIx) (s s' : State) : Prop where
  lane : s.lane l = s'.lane l
  column : (s.lane (columnLane l)).laneConfig = (s'.lane (columnLane l)).laneConfig
  pos : s.pos = s'.pos

namespace SameLane

variable {l : LaneIx} {s s' : State} (hs : SameLane l s s')

include hs

theorem lreg (r : Reg) : s.lreg r l = s'.lreg r l := congrArg (fun x : Lane => x.lreg l r) hs.lane

theorem enabled : laneEnabled s l = laneEnabled s' l :=
  laneEnabled_congr hs.column (congrArg Lane.useLaneFlags hs.lane) (congrArg Lane.laneFlag hs.lane)

theorem madDst (indirect : Bool) (vd : Reg) : madDst s indirect vd l = madDst s' indirect vd l := by
  simp only [Machine.madDst, State.indirect, hs.lreg]

theorem madValue (va vb vc : Reg) (mod1 : Mode) : madValue s va vb vc mod1 l = madValue s' va vb vc mod1 l := by
  simp only [Machine.madValue, hs.madDst, hs.lreg]

theorem lutValue (mod1 : Mode) : lutValue s mod1 l = lutValue s' mod1 l := by
  simp only [Machine.lutValue, lutCoeff, State.lregN, hs.lreg]

theorem movValue (vc : Reg) (mod1 : Mode) : movValue s vc mod1 l = movValue s' vc mod1 l := by
  simp only [Machine.movValue, hs.lane, hs.lreg]

/-! Each update of the lanes keeps the agreement, if what it puts into the lane agrees. -/

theorem writeLanesIf {en en' : LaneIx → Bool} {dst dst' : LaneIx → Reg} {val val' : LaneIx → Word}
    (he : en l = en' l) (hd : dst l = dst' l) (hv : val l = val' l) :
    SameLane l (s.writeLanesIf en dst val) (s'.writeLanesIf en' dst' val') where
  lane := by simp only [State.writeLanesIf_lane, he, hd, hv, hs.lane]
  column := by
    simp only [State.writeLanesIf_lane, apply_ite Lane.laneConfig, Lane.write_laneConfig, ite_self, hs.column]
  pos := by simpa using hs.pos

theorem writeLanes {dst dst' : LaneIx → Reg} {val val' : LaneIx → Word} (hd : dst l = dst' l) (hv : val l = val' l) :
    SameLane l (s.writeLanes dst val) (s'.writeLanes dst' val') :=
  hs.writeLanesIf hs.enabled hd hv

theorem setFlags {flag flag' : LaneIx → Bool} (hf : flag l = flag' l) :
    SameLane l (s.setFlags flag) (s'.setFlags flag') where
  lane := by simp only [State.setFlags_lane, hs.enabled, hf, hs.lane]
  column := by simp only [State.setFlags_lane, apply_ite Lane.laneConfig, ite_self, hs.column]
  pos := by simpa using hs.pos

theorem setPrng {prng prng' : LaneIx → Word} (hp : prng l = prng' l) :
    SameLane l (s.setPrng prng) (s'.setPrng prng') where
  lane := by simp only [State.setPrng_lane, hs.enabled, hp, hs.lane]
  column := by simp only [State.setPrng_lane, apply_ite Lane.laneConfig, ite_self, hs.column]
  pos := by simpa using hs.pos

omit hs in
theorem ite {b : Prop} [Decidable b] {u u' : State} (hs : SameLane l s s') (hu : SameLane l u u') :
    SameLane l (if b then s else u) (if b then s' else u') := by
  split
  · exact hs
  · exact hu

/-- What the instruction leaves in the lane, once it has retired. -/
theorem retire_lane (p p' : List Reg) : (s.retire p).lane l = (s'.retire p').lane l := by
  rw [State.retire_lane, State.retire_lane, hs.lane]

theorem copy4 {new3 new3' : LaneIx → Word} (hn : new3 l = new3' l) :
    SameLane l (copy4 s new3) (copy4 s' new3') :=
  (((hs.writeLanes rfl (hs.lreg 1)).writeLanes rfl (hs.lreg 2)).writeLanes rfl (hs.lreg 3)).writeLanes rfl hn

theorem shft2State {x : BitVec 12} {vc vd : Reg} {mod1 : Mode}
    (hm : ¬(mod1 = 1#4 ∨ mod1 = 2#4 ∨ mod1 = 3#4 ∨ mod1 = 4#4)) :
    SameLane l (shft2State x vc vd mod1 s) (shft2State x vc vd mod1 s') := by
  simp only [not_or] at hm
  obtain ⟨h1, h2, h3, h4⟩ := hm
  simp only [Machine.shft2State, h1, h2, h3, h4, if_false]
  split
  · exact hs.copy4 rfl
  · split
    · exact hs.writeLanes rfl (by simp only [hs.lreg])
    · exact hs.writeLanes rfl (by simp only [hs.lreg])

theorem compareState {vd : Reg} {mod1 : Mode} {r r' : LaneIx → Bool} (hr : r l = r' l) :
    SameLane l (compareState vd mod1 r s) (compareState vd mod1 r' s') := by
  unfold Machine.compareState
  extract_lets t1 t2 t1' t2'
  have h1 : SameLane l t1 t1' := by
    refine ite ⟨?_, ?_, ?_⟩ hs
    · simp only [State.mapLanes_lane, hs.lane, hr]
    · simpa using hs.column
    · simpa using hs.pos
  have h2 : SameLane l t2 t2' := (h1.writeLanes rfl (by simp only [hr])).ite h1
  exact (h2.setFlags hr).ite h2

end SameLane

section Local

variable {l : LaneIx} {i : Instr} {reads reads' : List Reg} {s s' t t' : State} {val val' : LaneIx → Word}

theorem lanewiseTo_local {dst dst' : LaneIx → Reg} {p p' : List Reg} (hs : SameLane l s s')
    (h : lanewiseTo i reads s dst val p = .next t) (h' : lanewiseTo i reads' s' dst' val' p' = .next t')
    (hd : dst l = dst' l) (hv : val l = val' l) : t.lane l = t'.lane l := by
  obtain ⟨-, -, rfl⟩ := lanewiseTo_next.1 h
  obtain ⟨-, -, rfl⟩ := lanewiseTo_next.1 h'
  exact (hs.writeLanes hd hv).retire_lane ..

theorem lanewiseFlag_local {vd : Reg} {sets : Bool} {flag flag' : LaneIx → Bool} (hs : SameLane l s s')
    (h : lanewiseFlag i reads s vd val sets flag = .next t)
    (h' : lanewiseFlag i reads' s' vd val' sets flag' = .next t') (hv : val l = val' l)
    (hf : flag l = flag' l) : t.lane l = t'.lane l := by
  obtain ⟨-, -, rfl⟩ := lanewiseFlag_next.1 h
  obtain ⟨-, -, rfl⟩ := lanewiseFlag_next.1 h'
  cases sets
  · exact (hs.writeLanes rfl hv).retire_lane ..
  · exact ((hs.writeLanes rfl hv).setFlags hf).retire_lane ..

theorem compareExec_local {vd : Reg} {mod1 : Mode} {r r' : LaneIx → Bool} (hs : SameLane l s s')
    (h : compareExec i vd mod1 r s = .next t)
    (h' : compareExec i vd mod1 r' s' = .next t') (hr : r l = r' l) : t.lane l = t'.lane l := by
  obtain ⟨-, -, -, rfl⟩ := compareExec_next.1 h
  obtain ⟨-, -, -, rfl⟩ := compareExec_next.1 h'
  exact (hs.compareState hr).retire_lane ..

theorem execSfpload_local {vd : Reg} {mod0 : Mode} {addrMod : BitVec 3} {imm10 : BitVec 10}
    (hs : SameLane l s s') (h : execSfpload vd mod0 addrMod imm10 s = .next t)
    (h' : execSfpload vd mod0 addrMod imm10 s' = .next t') (hdest : s.dest = s'.dest)
    (htensix : s.tensix = s'.tensix) (hthread : s.thread = s'.thread) (hoverlay : s.overlay = s'.overlay) :
    t.lane l = t'.lane l := by
  have hv : loadValue s vd (resolveMode s mod0) (destAddr s imm10) l =
      loadValue s' vd (resolveMode s' mod0) (destAddr s' imm10) l := by
    simp only [loadValue, resolveMode, destAddr, State.rwc, hdest, htensix, hthread, hoverlay, hs.lreg]
  obtain ⟨-, -, ⟨hlow, rfl⟩ | ⟨hlow, -, -, rfl⟩⟩ := execSfpload_next.1 h <;>
    obtain ⟨-, -, ⟨hlow', rfl⟩ | ⟨hlow', -, -, rfl⟩⟩ := execSfpload_next.1 h'
  · exact hs.lane
  · exact absurd (hlow.symm.trans hlow') Bool.false_ne_true
  · exact absurd (hlow'.symm.trans hlow) Bool.false_ne_true
  · simp only [State.retire_lane, State.applyAddrMod_lane]
    exact (hs.writeLanes rfl (by simp only [hv])).lane

/-- No instruction but SFPSHFT2 modes 1 to 4 and SFPCONFIG sees another lane. -/
theorem exec_local (h : exec i s = .next t) (h' : exec i s' = .next t') (hi : ¬readsOtherLanes i)
    (hs : SameLane l s s')
    (ha : isAccess i → s.dest = s'.dest ∧ s.tensix = s'.tensix ∧ s.thread = s'.thread ∧ s.overlay = s'.overlay) :
    t.lane l = t'.lane l := by
  cases i with
  | sfploadi | sfpdivp2 | sfpexman | sfpshft | sfpabs | sfpand | sfpor | sfpnot | sfpsetexp | sfpsetman | sfpsetsgn
  | sfpxor | sfparecip => exact lanewiseTo_local hs h h' rfl (by simp only [hs.lreg])
  | sfpmuli | sfpaddi | sfpmul24 =>
    exact lanewiseTo_local hs h h' (hs.madDst ..) (by simp only [hs.madDst, hs.lreg])
  | sfpmad va vb vc vd mod1 =>
    exact lanewiseTo_local (i := .sfpmad va vb vc vd mod1) hs h h' (hs.madDst ..) (hs.madValue ..)
  | sfpadd va vb vc vd mod1 =>
    exact lanewiseTo_local (i := .sfpadd va vb vc vd mod1) hs h h' (hs.madDst ..) (hs.madValue ..)
  | sfpmul va vb vc vd mod1 =>
    exact lanewiseTo_local (i := .sfpmul va vb vc vd mod1) hs h h' (hs.madDst ..) (hs.madValue ..)
  | sfplutfp32 => exact lanewiseTo_local hs h h' (hs.madDst ..) (hs.lutValue ..)
  | sfpexexp | sfplz =>
    exact lanewiseFlag_local hs h h' (by simp only [hs.lreg]) (by simp only [hs.lreg, hs.lane])
  | sfpiadd imm12 vc vd mod1 =>
    exact lanewiseFlag_local (i := .sfpiadd imm12 vc vd mod1) hs h h' (by simp only [hs.lreg])
      (by simp only [hs.lreg, hs.lane])
  | sfpgt vc vd mod1 => exact compareExec_local (i := .sfpgt vc vd mod1) hs h h' (by simp only [hs.lreg])
  | sfple vc vd mod1 => exact compareExec_local (i := .sfple vc vd mod1) hs h h' (by simp only [hs.lreg])
  | sfpload =>
    obtain ⟨hdest, htensix, hthread, hoverlay⟩ := ha trivial
    exact execSfpload_local hs h h' hdest htensix hthread hoverlay
  | sfpstore =>
    obtain ⟨-, -, -, -, rfl⟩ := execSfpstore_next.1 h
    obtain ⟨-, -, -, -, rfl⟩ := execSfpstore_next.1 h'
    exact hs.lane
  | sfpsetcc =>
    obtain ⟨-, -, rfl⟩ := execSfpsetcc_next.1 h
    obtain ⟨-, -, rfl⟩ := execSfpsetcc_next.1 h'
    exact (hs.setFlags (by simp only [hs.lreg, hs.lane])).retire_lane ..
  | sfpmov vc vd mod1 =>
    obtain ⟨-, -, rfl⟩ := execSfpmov_next.1 h
    obtain ⟨-, -, rfl⟩ := execSfpmov_next.1 h'
    have hw {dst : LaneIx → Reg} := hs.writeLanesIf (en := fun l => laneEnabled s l || mod1 = 2#4)
      (en' := fun l => laneEnabled s' l || mod1 = 2#4) (dst := dst) (by rw [hs.enabled]) rfl (hs.movValue vc mod1)
    exact ((hw.setPrng (by simp only [hs.lane])).ite hw).retire_lane ..
  | sfpcast =>
    obtain ⟨-, -, rfl⟩ := execSfpcast_next.1 h
    obtain ⟨-, -, rfl⟩ := execSfpcast_next.1 h'
    refine SameLane.retire_lane (.ite (.setPrng (hs.writeLanes rfl ?_) ?_) (hs.writeLanes rfl ?_)) .. <;>
      simp only [hs.lreg, hs.lane, hs.pos]
  | sfpstochrnd =>
    obtain ⟨-, -, rfl⟩ := execSfpstochrnd_next.1 h
    obtain ⟨-, -, rfl⟩ := execSfpstochrnd_next.1 h'
    refine SameLane.retire_lane (.ite (.setPrng (hs.writeLanes rfl ?_) ?_) (hs.writeLanes rfl ?_)) .. <;>
      simp only [hs.lreg, hs.lane, hs.pos]
  | sfpswap =>
    obtain ⟨-, -, -, rfl⟩ := execSfpswap_next.1 h
    obtain ⟨-, -, -, rfl⟩ := execSfpswap_next.1 h'
    exact ((hs.writeLanes rfl (by simp only [hs.lreg])).writeLanes rfl (by simp only [hs.lreg])).retire_lane ..
  | sfpshft2 =>
    obtain ⟨-, -, rfl⟩ := execSfpshft2_next.1 h
    obtain ⟨-, -, rfl⟩ := execSfpshft2_next.1 h'
    simp only [State.requireNop_lane]
    exact (hs.shft2State hi).retire_lane ..
  | sfpencc =>
    obtain ⟨-, -, rfl⟩ := execSfpencc_next.1 h
    obtain ⟨-, -, rfl⟩ := execSfpencc_next.1 h'
    simp only [State.retire_lane, State.mapLanes_lane, hs.enabled, hs.lane]
  | sfppushc =>
    obtain ⟨-, -, -, -, rfl⟩ := execSfppushc_next.1 h
    obtain ⟨-, -, -, -, rfl⟩ := execSfppushc_next.1 h'
    simp only [State.retire_lane, State.mapLanes_lane, hs.lane]
  | sfppopc =>
    obtain ⟨-, -, -, -, rfl⟩ := execSfppopc_next.1 h
    obtain ⟨-, -, -, -, rfl⟩ := execSfppopc_next.1 h'
    simp only [State.retire_lane, State.mapLanes_lane, hs.lane]
  | sfpcompc =>
    obtain ⟨-, -, rfl⟩ := execSfpcompc_next.1 h
    obtain ⟨-, -, rfl⟩ := execSfpcompc_next.1 h'
    simp only [State.retire_lane, State.mapLanes_lane, hs.lane]
  | sfpnop => cases h; cases h'; exact hs.lane
  | sfpconfig => exact absurd trivial hi
  | sfptransp | sfploadmacro => cases h

end Local

end Sys2Proof.Machine

/-! # The stream, the layout of `LaneConfig` and the invariant -/

namespace Sys2Proof.Machine

/-! ## `LaneConfig` (R23, R25) -/

/-- The test for the reset value in `cfgBit` changes nothing. -/
@[simp] theorem cfgBit_eq (cfg : BitVec Config.laneConfigBits) (p : Nat) : cfgBit cfg p = cfg.getLsbD p := by
  unfold cfgBit
  by_cases h : cfg = 0#Config.laneConfigBits
  · simp [h]
  · simp [h]

/-- Lane enable as R23 says it: the mask of the row first, then the flag where the switch is on. -/
theorem laneEnabled_iff (s : State) (l : LaneIx) : laneEnabled s l = true ↔
    rowMask (s.lane (columnLane l)).laneConfig (laneRow l) = false ∧
      ((s.lane l).useLaneFlags = true → (s.lane l).laneFlag = true) := by
  unfold laneEnabled
  cases rowMask (s.lane (columnLane l)).laneConfig (laneRow l) <;> cases (s.lane l).useLaneFlags <;> simp

/-- A position outside `ROW_MASK` lies in the word and outside the four bits of the mask. -/
theorem outsideRowMask_spec {r : Nat} (hr : r < Config.laneConfigBits - Config.gridRows) :
    outsideRowMask r < 18 ∧
      ¬(Config.rowMaskLo.val ≤ outsideRowMask r ∧ outsideRowMask r < Config.rowMaskLo.val + 4) := by
  have := Config.rowMaskLo.isLt
  simp only [outsideRowMask, Config.laneConfigBits, Config.gridRows] at *
  split <;> omega

theorem outsideRowMask_injective : Function.Injective outsideRowMask := by
  intro r r' h
  simp only [outsideRowMask, Config.gridRows] at h
  split at h <;> split at h <;> omega

@[simp] theorem State.reset_lane (l : LaneIx) : State.reset.lane l = Lane.reset := by
  simp [State.reset, State.lane]

/-! ## Delivery and the check of the stream (R28, R29, R243) -/

theorem State.deliver_eq (s : State) (d : Delivery) : s.deliver d = { s with tensix := d.inputs.getD s.tensix } := by
  unfold State.deliver; cases d.inputs <;> rfl

/-- A stream that may start, or has started, passes the check that a step makes first (R243, R262). -/
theorem streamCheck_none {s : State} (h : s.pos = 0 → AdmittedStream s.program) :
    (if s.pos = 0 then streamRefusal Config.enc s.program else none) = none := by
  split
  · next h0 => exact streamRefusal_none.2 (h h0)
  · rfl

/-- Why a word is refused: it does not decode, or its operand form has no meaning. -/
theorem wordRefusal_some {w : BitVec 32} {r : Refusal} (h : wordRefusal Config.enc w = some r) :
    (∃ e, decode w = .error e ∧ r = .undecodable e) ∨
      ∃ i e, decode w = .ok i ∧ formError i = some e ∧ r = .inadmissible e := by
  simp only [wordRefusal, Config.enc] at h
  cases hd : decode w with
  | error e => simp only [hd] at h; exact .inl ⟨e, rfl, (Option.some.inj h).symm⟩
  | ok i =>
    simp only [hd, Option.map_eq_some_iff] at h
    obtain ⟨e, he, rfl⟩ := h
    exact .inr ⟨i, e, rfl, he, rfl⟩

/-- A stream that may not start is refused for its first word outside the admitted subset. -/
theorem streamRefusal_of_not_admitted {p : List Delivery} (h : ¬AdmittedStream p) :
    ∃ before d after r, p = before ++ d :: after ∧ AdmittedStream before ∧
      wordRefusal Config.enc d.word = some r ∧ streamRefusal Config.enc p = some r := by
  obtain ⟨r, hr⟩ := Option.ne_none_iff_exists'.1 fun hn => h (streamRefusal_none.1 hn)
  obtain ⟨before, d, after, hp, hd, hb⟩ := List.findSome?_eq_some_iff.1 hr
  exact ⟨before, d, after, r, hp, streamRefusal_none.1 (List.findSome?_eq_none_iff.2 hb), hd, hr⟩

/-! ## The invariant, part by part -/

section Invariant

variable {i : Instr} {s t : State}

/-- The depth of a flag stack after the instruction `i`, from the depth before (R22, R222, R223). -/
def depthAfter : Instr → Nat → Nat
  | .sfppushc _ mod1, n => if mod1 = 0#4 then n + 1 else n
  | .sfppopc _ mod1, n => if mod1 = 0#4 then n - 1 else n
  | _, n => n

/-- An instruction changes all 32 depths alike. -/
theorem exec_depth (h : exec i s = .next t) (l : LaneIx) :
    (t.lane l).flagStack.length = depthAfter i (s.lane l).flagStack.length := by
  have hl := (exec_effect h).lanes l
  cases i with
  | sfppushc vd mod1 =>
    obtain ⟨-, -, -, -, rfl⟩ := execSfppushc_next.1 h
    simp only [State.retire_lane, State.mapLanes_lane, pushLane_flagStack_length, depthAfter]
  | sfppopc vd mod1 =>
    obtain ⟨-, -, -, -, rfl⟩ := execSfppopc_next.1 h
    simp only [State.retire_lane, State.mapLanes_lane, popLane_flagStack, depthAfter]
    rw [apply_ite List.length, List.length_tail]
  | _ => exact hl.depth nofun nofun

/-- SFPPUSHC faults on a full stack, so no stack outgrows its 8 entries. -/
theorem exec_depth_le (h : exec i s = .next t) (l : LaneIx) (hd : (s.lane l).flagStack.length ≤ Config.stackDepth) :
    (t.lane l).flagStack.length ≤ Config.stackDepth := by
  rw [exec_depth h l]
  cases i with
  | sfppushc vd mod1 =>
    obtain ⟨-, -, hfull, -, -⟩ := execSfppushc_next.1 h
    have hfull := hfull l
    by_cases h0 : mod1 = 0#4
    · simp only [h0, decide_true, Bool.true_and, decide_eq_false_iff_not] at hfull
      simp only [depthAfter, h0, if_true]
      omega
    · simpa only [depthAfter, h0, if_false] using hd
  | sfppopc vd mod1 => simp only [depthAfter]; split <;> omega
  | _ => exact hd

/-- What SFPCONFIG writes is the same all down a column (R206), so the storage stays equal down each column. -/
theorem exec_column (h : exec i s = .next t) (l : LaneIx) (hs : SameStorage (s.lane l) (s.lane (columnLane l))) :
    SameStorage (t.lane l) (t.lane (columnLane l)) := by
  by_cases hi : isConfig i
  · cases i with
    | sfpconfig imm16 vd mod1 =>
      obtain ⟨-, -, -, rfl⟩ := execSfpconfig_next.1 h
      have hv : configValue imm16 vd mod1 s (columnLane l) = configValue imm16 vd mod1 s l := by
        have hcol : columnLane (columnLane l) = columnLane l := Fin.ext (Nat.mod_mod ..)
        simp only [configValue, hcol]
      simp only [State.requireNop_lane, State.retire_lane, configState, State.mapLanes_lane, hv]
      exact hs.configLane vd mod1 _
    | _ => exact absurd hi id
  · have hl := ((exec_effect h).lanes l).frame.storage hi
    have hk := ((exec_effect h).lanes (columnLane l)).frame.storage hi
    exact ⟨by rw [hl.laneConfig, hk.laneConfig, hs.laneConfig], by rw [hl.prg, hk.prg, hs.prg],
      by rw [hl.lmc, hk.lmc, hs.lmc]⟩

/-- SFPSTORE writes inside the array, in the canonical order. -/
theorem exec_dest_wf (h : exec i s = .next t) (hd : s.dest.wf) (ho : LawfulOverlay s.overlay) : t.dest.wf := by
  by_cases hi : isStore i
  · cases i with
    | sfpstore vd mod0 addrMod imm10 =>
      obtain ⟨-, -, -, hrange, rfl⟩ := execSfpstore_next.1 h
      refine wf_storeLanes vd ho hd fun l hen h32 => ?_
      simpa [beyondView, hen, h32] using hrange l
    | _ => exact absurd hi id
  · rw [(exec_effect h).dest hi]; exact hd

/-- An instruction that stands in the stream keeps the invariant. -/
theorem exec_inv (hs : Inv s) (hpos : s.pos < s.program.length) (h : exec i s = .next t) : Inv t := by
  have he := exec_effect h
  have hcol := fun l => exec_column h l ⟨hs.config l, hs.constants l, hs.macros l⟩
  exact
    { dest := exec_dest_wf h hs.dest hs.overlay
      depth := fun l => exec_depth_le h l (hs.depth l)
      level := fun l k => by rw [exec_depth h l, exec_depth h k, hs.level l k]
      config := fun l => (hcol l).laneConfig
      constants := fun l => (hcol l).prg
      macros := fun l => (hcol l).lmc
      pending := he.pending.eq_regSet
      pos := by rw [he.pos, he.program]; exact hpos
      overlay := by rw [he.overlay]; exact hs.overlay }

/-- A delivery changes the Tensix inputs alone, of which the invariant does not speak. -/
theorem deliver_inv (hs : Inv s) (d : Delivery) : Inv (s.deliver d) := by
  rw [State.deliver_eq]
  exact ⟨hs.dest, hs.depth, hs.level, hs.config, hs.constants, hs.macros, hs.pending, hs.pos, hs.overlay⟩

end Invariant

/-! ## The obligations -/

/-- Settles O9: a step stays at the end of the stream or runs one instruction, and `exec_inv` keeps each part. -/
theorem everyStepKeepsTheInvariant : Obligations.EveryStepKeepsTheInvariant := by
  intro s t hs h
  obtain ⟨-, ⟨-, rfl⟩ | ⟨d, i, hf, -, hx⟩⟩ := step_next h
  · exact hs
  · obtain ⟨hpos, -⟩ := List.getElem?_eq_some_iff.1 hf
    exact exec_inv (deliver_inv hs d) (by simpa using hpos) hx

/-- Settles O10, from the effect of the instruction and the frame of each lane. -/
theorem stateChangesOnlyByItsWriters : Obligations.StateChangesOnlyByItsWriters := by
  intro i s t h
  have he := exec_effect h
  have hf := fun l => (he.lanes l).frame
  refine ⟨he.program, he.thread, he.overlay, fun l => (hf l).r16, he.tensix, he.dest, fun hi => ?_,
    fun hi l => (hf l).prng hi, fun hi l => (hf l).switch hi, fun hi l => (hf l).stack hi, fun hi l => (hf l).flag hi⟩
  have hst := fun l => (hf l).storage hi
  exact ⟨fun l => (hst l).laneConfig, fun l => (hst l).lmc, fun l r hr => Lane.lreg_of_prg_eq l hr (hst l).prg⟩

/-- Settles O11, from what an instruction may do to a lane that is not enabled. -/
theorem disabledLanesKeepTheirState : Obligations.DisabledLanesKeepTheirState := by
  intro i s t l h hen
  have hl := (exec_effect h).lanes l
  rw [hen] at hl
  exact ⟨hl.eq_of_disabled, fun _ _ _ => hl.eq_of_disabled_compare, fun _ _ _ => hl.eq_of_disabled_mov⟩

/-- Settles O12, by the agreement of the two runs on the lane. -/
theorem lanesDoNotSeeEachOther : Obligations.LanesDoNotSeeEachOther :=
  fun _ _ _ _ _ _ hi h h' hlane hcol hpos ha => exec_local h h' hi ⟨hlane, hcol, hpos⟩ ha

/-- Settles O3: the places of the three fields are those of the model's layout. -/
theorem laneEnableFollowsRowMaskAndFlags : Obligations.LaneEnableFollowsRowMaskAndFlags := by
  have hd := Config.disableBackdoorRank.isLt
  have hx := Config.enableDestIndexRank.isLt
  have hlo := Config.rowMaskLo.isLt
  simp only [Config.laneConfigBits, Config.gridRows] at hd hx hlo
  generalize hb : Config.disableBackdoorRank.val = b at hd
  generalize hk : (if Config.enableDestIndexRank.val < b then Config.enableDestIndexRank.val
    else Config.enableDestIndexRank.val + 1) = k
  have hkb : k ≠ b ∧ k < 14 := by split at hk <;> omega
  obtain ⟨hb18, hbMask⟩ := outsideRowMask_spec (r := b) hd
  obtain ⟨hk18, hkMask⟩ := outsideRowMask_spec (r := k) hkb.2
  refine ⟨Config.rowMaskLo.val, outsideRowMask b, outsideRowMask k, by omega, hb18, hk18,
    fun h => hkb.1 (outsideRowMask_injective h).symm, hbMask, hkMask, fun cfg => ⟨?_, ?_⟩, fun s l => ?_⟩
  · rw [disableBackdoorLoad, cfgBit_eq, hb]
  · rw [enableDestIndex, cfgBit_eq, hb, hk]
  · rw [laneEnabled_iff, rowMask, cfgBit_eq]; rfl

/-- Settles O13, from the effect of the instruction. -/
theorem instructionsAdvanceAndLeavePending : Obligations.InstructionsAdvanceAndLeavePending := by
  intro i s t h
  have he := exec_effect h
  exact ⟨he.pos, he.pending.mem_iff, he.nop⟩

/-- Settles O1: every lane is `Lane.reset`, in which no mask bit and no switch is set. -/
theorem resetLeavesFlagsStacksAndConfigClear : Obligations.ResetLeavesFlagsStacksAndConfigClear := by
  refine ⟨fun l => ?_, fun l => ?_, rfl, rfl⟩
  · rw [State.reset_lane]; exact ⟨rfl, rfl, rfl, rfl⟩
  · rw [laneEnabled_iff]; simp [Lane.reset, rowMask]

/-- Settles O2: the four indices are hard-wired in the accessor. -/
theorem hardwareConstantsHoldInEveryState : Obligations.HardwareConstantsHoldInEveryState :=
  fun s l => (s.lane l).lreg_const l

/-- Settles O4, clause by clause from the two halves of a step: the check of the stream and the delivery. -/
theorem stepRunsTheDeliveredInstruction : Obligations.StepRunsTheDeliveredInstruction := by
  refine ⟨fun s d i hadm hd hi => ?_, fun s h0 hadm => ?_, fun s d e h0 hd he => ?_, fun s hlen => ?_⟩
  · have hi : Config.enc.decode d.word = .ok i := hi
    simp only [step, stepWith, streamCheck_none hadm, fetch, hd, hi, State.deliver_eq]
  · obtain ⟨before, d, after, r, hp, hb, hw, hr⟩ := streamRefusal_of_not_admitted hadm
    have hstep : step s = .refused r := by simp only [step, stepWith, h0, if_true, hr]
    refine ⟨before, after, d, hp, hb, ?_⟩
    rcases wordRefusal_some hw with ⟨e, he, rfl⟩ | ⟨i, e, hi, he, rfl⟩
    · exact .inl ⟨e, he, hstep⟩
    · exact .inr ⟨i, e, hi, he, hstep⟩
  · have he : Config.enc.decode d.word = .error e := he
    simp only [step, stepWith, streamCheck_none fun h => absurd h h0, fetch, hd, he]
  · have hadm : s.pos = 0 → AdmittedStream s.program := by
      intro h0
      have hnil : s.program = [] := List.length_eq_zero_iff.1 (by omega)
      rw [hnil]
      exact nofun
    simp only [step, stepWith, streamCheck_none hadm, fetch, List.getElem?_eq_none hlen]

/-- Settles O8: all lanes are alike, Dest, the stacks and `pending` are empty, and the overlay is the candidate. -/
theorem invariantHoldsAtReset : Obligations.InvariantHoldsAtReset where
  dest := ⟨List.Pairwise.nil, nofun⟩
  depth l := by simp [Lane.reset]
  level l k := by simp
  config l := by simp
  constants l := by simp
  macros l := by simp
  pending := rfl
  pos := Nat.le_refl 0
  overlay := lawfulOverlay_nil

end Sys2Proof.Machine

/-! # Dest (`20_memory.md`): addressing, the shuffles, and the accesses SFPLOAD and SFPSTORE -/

namespace Sys2Proof.Machine

/-! ## Fields of joined vectors -/

/-- The three fields of a join. -/
theorem extract_append3 {a b c : Nat} (x : BitVec a) (y : BitVec b) (z : BitVec c) :
    (x ++ y ++ z).extractLsb' (b + c) a = x ∧ (x ++ y ++ z).extractLsb' c b = y ∧
      (x ++ y ++ z).extractLsb' 0 c = z := by
  refine ⟨?_, ?_, BitVec.extractLsb'_append_eq_right⟩
  · rw [extract_append_high _ _ _ _ (by omega), Nat.add_sub_cancel, BitVec.extractLsb'_append_eq_left]
  · rw [extract_append_high _ _ _ _ le_rfl, Nat.sub_self, BitVec.extractLsb'_append_eq_right]

/-- The four fields of a join. -/
theorem extract_append4 {a b c d : Nat} (x : BitVec a) (y : BitVec b) (z : BitVec c) (t : BitVec d) :
    (x ++ y ++ z ++ t).extractLsb' (b + c + d) a = x ∧ (x ++ y ++ z ++ t).extractLsb' (c + d) b = y ∧
      (x ++ y ++ z ++ t).extractLsb' d c = z ∧ (x ++ y ++ z ++ t).extractLsb' 0 d = t := by
  obtain ⟨hx, hy, hz⟩ := extract_append3 x y z
  refine ⟨?_, ?_, ?_, BitVec.extractLsb'_append_eq_right⟩
  · rw [extract_append_high _ _ _ _ (by omega), Nat.add_sub_cancel, hx]
  · rw [extract_append_high _ _ _ _ (by omega), Nat.add_sub_cancel, hy]
  · rw [extract_append_high _ _ _ _ le_rfl, Nat.sub_self, hz]

/-- Three adjacent fields make up a vector. -/
theorem append_extract3 {a b c : Nat} (w : BitVec (a + b + c)) :
    w.extractLsb' (b + c) a ++ w.extractLsb' c b ++ w.extractLsb' 0 c = w := by
  rw [BitVec.extractLsb'_append_extractLsb'_eq_extractLsb' (by omega), BitVec.extractLsb'_append_extractLsb']

/-- Four adjacent fields make up a vector. -/
theorem append_extract4 {a b c d : Nat} (w : BitVec (a + b + c + d)) :
    w.extractLsb' (b + c + d) a ++ w.extractLsb' (c + d) b ++ w.extractLsb' d c ++ w.extractLsb' 0 d = w := by
  rw [BitVec.extractLsb'_append_extractLsb'_eq_extractLsb' (by omega), append_extract3]

/-- A field of a field. -/
theorem extract_extract {n : Nat} (w : BitVec n) {k len i m : Nat} (h : i + m ≤ len) :
    (w.extractLsb' k len).extractLsb' i m = w.extractLsb' (k + i) m := by
  ext j hj
  simp only [BitVec.getElem_extractLsb', BitVec.getLsbD_extractLsb', Nat.add_assoc,
    show i + j < len by omega, decide_true, Bool.true_and]

/-- A field of one bit. -/
theorem extract_one {n : Nat} (w : BitVec n) (k : Nat) : w.extractLsb' k 1 = BitVec.ofBool (w.getLsbD k) := by
  ext i hi
  obtain rfl : i = 0 := by omega
  simp

/-! ## Addressing (R42 to R44) -/

/-- Clearing the two low bits of an address. -/
theorem and_1020 {addr : Nat} (h : addr < 1024) : addr &&& 1020 = addr / 4 * 4 := by
  refine Nat.eq_of_testBit_eq fun i => ?_
  have hmask : (1020 : Nat) = (2 ^ 8 - 1) * 2 ^ 2 := rfl
  have hclear : addr / 4 * 4 = addr / 2 ^ 2 * 2 ^ 2 := rfl
  rw [hmask, hclear, Nat.testBit_and, Nat.testBit_mul_two_pow, Nat.testBit_mul_two_pow, Nat.testBit_two_pow_sub_one,
    Nat.testBit_div_two_pow]
  by_cases h2 : 2 ≤ i
  · by_cases h10 : i < 10
    · simp [h2, show i - 2 < 8 by omega]
    · have hi : addr < 2 ^ i := h.trans_le (Nat.pow_le_pow_right (n := 2) (by omega) (show 10 ≤ i by omega))
      simp [h2, Nat.testBit_lt_two_pow hi]
  · simp [h2]

theorem and_two_ne_zero (addr : Nat) : addr &&& 2 ≠ 0 ↔ addr / 2 % 2 = 1 := by
  have h : addr &&& 2 = (addr.testBit 1).toNat * 2 := Nat.and_two_pow addr 1
  rw [h, Nat.testBit_eq_decide_div_mod_eq]
  by_cases hb : addr / 2 ^ 1 % 2 = 1 <;> simp_all

/-- The row and the column of a lane in numerals. -/
theorem destRow_eq (addr : Nat) (l : LaneIx) : destRow addr l = addr / 4 * 4 + l.val / 8 := rfl

theorem destCol_eq (addr : Nat) (x : Bool) (l : LaneIx) :
    destCol addr x l = l.val % 8 * 2 + (if addr / 2 % 2 = 1 ∨ x = true then 1 else 0) := rfl

/-- The cells that an access covers: four rows by the eight columns of one parity. -/
theorem exists_lane_iff (addr r c : Nat) (x : Bool) : (∃ l : LaneIx, destRow addr l = r ∧ destCol addr x l = c) ↔
    addr / 4 * 4 ≤ r ∧ r < addr / 4 * 4 + 4 ∧ c < 16 ∧ c % 2 = (if addr / 2 % 2 = 1 ∨ x = true then 1 else 0) := by
  simp only [destRow_eq, destCol_eq]
  generalize hp : (if addr / 2 % 2 = 1 ∨ x = true then 1 else 0) = p
  have hp : p < 2 := by split at hp <;> omega
  constructor
  · rintro ⟨l, hr, hc⟩; omega
  · rintro ⟨h1, h2, h3, h4⟩
    exact ⟨⟨(r - addr / 4 * 4) * 8 + c / 2, by omega⟩, by simp only []; omega, by simp only []; omega⟩

/-- No two lanes share a cell. -/
theorem lane_eq_of_cell_eq {addr : Nat} {x : Bool} {l k : LaneIx} (hr : destRow addr l = destRow addr k)
    (hc : destCol addr x l = destCol addr x k) : l = k := by
  simp only [destRow_eq, destCol_eq] at hr hc
  exact Fin.ext (by omega)

/-- Settles O18: the address and the cell in numerals, the lane of a covered cell, and the cell determines the lane. -/
theorem lanesMapToDistinctDestCells : Obligations.LanesMapToDistinctDestCells := by
  refine ⟨fun s imm10 => ?_, fun addr x l h => ⟨?_, ?_, ?_⟩, exists_lane_iff, fun _ _ _ _ => lane_eq_of_cell_eq⟩
  · have hmask := Nat.and_two_pow_sub_one_eq_mod (s.rwc.sp + s.tensix.destSpBase) 2
    simp only [Nat.reducePow, Nat.reduceSub] at hmask
    simp only [destAddr, Config.addrBits, hmask]
  · rw [destRow_eq, and_1020 h]
  · rw [destRow_eq]; omega
  · simp only [destCol_eq, and_two_ne_zero]

/-! ## The shuffles (R47) -/

theorem shuffle32_append (s : BitVec 1) (e : BitVec 8) (m : BitVec 7) (lo : Half) :
    shuffle32 (s ++ e ++ m ++ lo) = s ++ m ++ e ++ lo := by
  obtain ⟨hs, he, hm, hlo⟩ := extract_append4 s e m lo
  rw [shuffle32, hs, he, hm, hlo]

theorem unshuffle32_append (s : BitVec 1) (m : BitVec 7) (e : BitVec 8) (lo : Half) :
    unshuffle32 (s ++ m ++ e ++ lo) = s ++ e ++ m ++ lo := by
  obtain ⟨hs, hm, he, hlo⟩ := extract_append4 s m e lo
  rw [unshuffle32, hs, he, hm, hlo]

theorem shuffle16_append (s : BitVec 1) (e : BitVec 8) (m : BitVec 7) : shuffle16 (s ++ e ++ m) = s ++ m ++ e := by
  obtain ⟨hs, he, hm⟩ := extract_append3 s e m
  rw [shuffle16, hs, he, hm]

theorem unshuffle16_append (s : BitVec 1) (m : BitVec 7) (e : BitVec 8) : unshuffle16 (s ++ m ++ e) = s ++ e ++ m := by
  obtain ⟨hs, hm, he⟩ := extract_append3 s m e
  rw [unshuffle16, hs, he, hm]

@[simp] theorem unshuffle32_shuffle32 (w : Word) : unshuffle32 (shuffle32 w) = w :=
  (unshuffle32_append ..).trans (append_extract4 (a := 1) (b := 8) (c := 7) (d := 16) w)

@[simp] theorem shuffle32_unshuffle32 (d : Word) : shuffle32 (unshuffle32 d) = d :=
  (shuffle32_append ..).trans (append_extract4 (a := 1) (b := 7) (c := 8) (d := 16) d)

@[simp] theorem unshuffle16_shuffle16 (h : Half) : unshuffle16 (shuffle16 h) = h :=
  (unshuffle16_append ..).trans (append_extract3 (a := 1) (b := 8) (c := 7) h)

@[simp] theorem shuffle16_unshuffle16 (c : Half) : shuffle16 (unshuffle16 c) = c :=
  (shuffle16_append ..).trans (append_extract3 (a := 1) (b := 7) (c := 8) c)

/-- The 16-bit shuffle of the upper half of a word. -/
theorem shuffle16_hi (w : Word) :
    shuffle16 (w.extractLsb' 16 16) = w.extractLsb' 31 1 ++ w.extractLsb' 16 7 ++ w.extractLsb' 23 8 := by
  rw [shuffle16, extract_extract w (by omega), extract_extract w (by omega), extract_extract w (by omega)]

/-- Settles O19: a shuffle of joined fields joins them in the other order. -/
theorem shufflesAreInverse : Obligations.ShufflesAreInverse :=
  ⟨fun w => ⟨unshuffle32_shuffle32 w, shuffle32_unshuffle32 w⟩,
    fun h => ⟨unshuffle16_shuffle16 h, shuffle16_unshuffle16 h⟩,
    by decide, by decide, by decide, by decide, fun w => ⟨rfl, shuffle16_hi w⟩⟩

end Sys2Proof.Machine

/-! # SFPLOAD and SFPSTORE (`40_load_store.md` R90 to R97) -/

namespace Sys2Proof.Machine

/-! ## The mode (R90) and the admitted forms (R96, R99, R243) -/

/-- `MOD0_FMT_SRCB` resolves to a floating-point format, one of the modes 1 to 3. -/
theorem resolveMode_zero (s : State) : 0#4 < resolveMode s 0#4 ∧ resolveMode s 0#4 < 4#4 := by
  unfold resolveMode
  cases s.tensix.aluFormatSpec <;> decide

theorem resolveMode_of_ne {s : State} {mod0 : Mode} (h : mod0 ≠ 0#4) : resolveMode s mod0 = mod0 := if_neg h

theorem resolveMode_ne_zero (s : State) (mod0 : Mode) : resolveMode s mod0 ≠ 0#4 := by
  by_cases h : mod0 = 0#4
  · subst h; exact (BitVec.ne_of_lt (resolveMode_zero s).1).symm
  · rwa [resolveMode_of_ne h]

/-- The modes from 4 upwards are not reached by `MOD0_FMT_SRCB`. -/
theorem resolveMode_eq_iff {s : State} {mod0 m : Mode} (hm : 4#4 ≤ m) : resolveMode s mod0 = m ↔ mod0 = m := by
  by_cases h : mod0 = 0#4
  · subst h
    exact iff_of_false (fun e => BitVec.not_lt.2 hm (e ▸ (resolveMode_zero s).2)) fun e => absurd (e ▸ hm) (by decide)
  · rw [resolveMode_of_ne h]

theorem require_eq_none {b : Bool} {e : FormError} : require b e = none ↔ b = true := by
  cases b <;> simp [require]

theorem formError_sfpload {vd : Reg} {mod0 : Mode} {am : BitVec 3} {imm10 : BitVec 10} :
    formError (.sfpload vd mod0 am imm10) = none ↔ mod0 ≠ 10#4 :=
  require_eq_none.trans decide_eq_true_iff

theorem formError_sfpstore {vd : Reg} {mod0 : Mode} {am : BitVec 3} {imm10 : BitVec 10} :
    formError (.sfpstore vd mod0 am imm10) = none ↔ mod0 ≠ 10#4 ∧ mod0 ≠ 11#4 ∧ vd < 12#4 := by
  simp [formError, require_eq_none]

/-- The sources of SFPSTORE are the registers that pass its two checks of VD. -/
theorem storeSource_iff {s : State} {vd : Reg} : StoreSource s vd ↔ vd < 12#4 ∧
    (!isGpr vd && (List.finRange Config.nLanes).any fun l => !disableBackdoorLoad (s.lane l).laneConfig) = false := by
  have h12 : vd < 8#4 → vd < 12#4 := fun h => BitVec.lt_trans h (by decide)
  by_cases h8 : vd < 8#4
  · simp [StoreSource, h8, h12 h8]
  · simp [StoreSource, h8]

/-- Only a 32-bit access can lie beyond its view, at row 512 or above (R91). -/
theorem beyondView_eq_false {view32 : Bool} {addr : Nat} {l : LaneIx} :
    beyondView view32 addr l = false ↔ (view32 = true → destRow addr l < 512) := by
  cases view32
  · simp [beyondView]
  · rw [beyondView, Bool.true_and, decide_eq_false_iff_not, Nat.not_le]
    exact ⟨fun h _ => h, fun h => h rfl⟩

/-! ## What an access leaves alone -/

/-- The end of an access moves `RWCs[Thread]` (R58). -/
theorem movesRwc_applyAddrMod {s u : State} (am : BitVec 3) (ht : u.tensix = s.tensix) (hth : u.thread = s.thread) :
    MovesRwc s ((u.applyAddrMod am).retire []) am := by
  have hr : u.rwc = s.rwc := by simp only [State.rwc, ht, hth]
  refine ⟨?_, fun k hk => ?_, ?_, hth⟩
  · rw [← hr]; exact State.applyAddrMod_rwc u am
  · simp only [State.retire_tensix, State.applyAddrMod, setRwc_getD, hth, ht, if_neg hk]
  · simp only [State.retire_tensix, State.applyAddrMod, ht]

/-- The frame of an access that has completed. -/
theorem accessFrame_of_exec {i : Instr} {s t : State} {am : BitVec 3} (hexec : exec i s = .next t) (hi : isAccess i)
    (hm : MovesRwc s t am) (ha : Advances s t [] false) : AccessFrame s t am := by
  have h := exec_effect hexec
  have hf := fun l => (h.lanes l).frame
  cases i with
  | sfpload | sfpstore =>
    have hst := fun l => (hf l).storage id
    exact ⟨fun l => (hf l).flag id, fun l => (hf l).switch id, fun l => (hf l).stack id, fun l => (hf l).prng id,
      fun l => (hst l).laneConfig, fun l => (hst l).lmc, fun l => (hf l).r16, h.program, h.overlay, hm, ha⟩
  | _ => exact absurd hi id

/-! ## SFPLOAD -/

section Load

variable {vd : Reg} {mod0 : Mode} {am : BitVec 3} {imm10 : BitVec 10} {s : State}

/-- SFPLOAD where every enabled lane has a value: it writes these values and nothing else. -/
theorem load_completes (hvd : vd < 8#4) (hmod : mod0 ≠ 10#4) (val : LaneIx → Word)
    (hview : ∀ l, laneEnabled s l = true → beyondView (loads32 (resolveMode s mod0)) (destAddr s imm10) l = false)
    (hval : ∀ l, laneEnabled s l = true → loadValue s vd (resolveMode s mod0) (destAddr s imm10) l = some (val l)) :
    Completes (.sfpload vd mod0 am imm10) s [] fun t =>
      KeepsRegs s t (fun l r => laneEnabled s l = true ∧ r = vd) ∧
      (∀ l, laneEnabled s l = true → t.lreg vd l = val l) ∧ t.dest = s.dest ∧ AccessFrame s t am := by
  intro hissue
  have hread : ∀ l, (laneEnabled s l && !beyondView (loads32 (resolveMode s mod0)) (destAddr s imm10) l &&
      (loadValue s vd (resolveMode s mod0) (destAddr s imm10) l).isNone) = false := fun l => by
    cases hl : laneEnabled s l <;> simp [hl, hval]
  have hrow : ∀ l, (laneEnabled s l && beyondView (loads32 (resolveMode s mod0)) (destAddr s imm10) l) = false :=
    fun l => by cases hl : laneEnabled s l <;> simp [hl, hview]
  have hexec : exec (.sfpload vd mod0 am imm10) s = .next _ := execSfpload_next.2
    ⟨formError_sfpload.2 hmod, hissue, .inr ⟨decide_eq_true hvd, hread, hrow, rfl⟩⟩
  refine ⟨_, hexec, fun l r hr => ?_, fun l hl => ?_, by simp,
    accessFrame_of_exec hexec trivial (movesRwc_applyAddrMod am (by simp) (by simp)) ⟨by simp, rfl, rfl⟩⟩
  · simp only [State.retire_lreg, State.applyAddrMod_lreg, State.lreg_writeLanes]
    exact if_neg fun ⟨h1, h2, _⟩ => hr ⟨h1, h2⟩
  · simp only [State.retire_lreg, State.applyAddrMod_lreg, State.lreg_writeLanes, hl, hvd, hval l hl, and_self,
      if_true, Option.getD_some]

/-- A sign bit over a magnitude of 15 bits as a sign-magnitude word. -/
theorem mkSm_zeroExtend (b : Bool) (m : BitVec 15) : mkSm b (m.zeroExtend 31) = BitVec.ofBool b ++ 0#16 ++ m := by
  have hz : m.zeroExtend 31 = 0#16 ++ m := BitVec.setWidth_eq_append (by omega)
  rw [mkSm, hz]
  exact (BitVec.append_assoc (x₁ := BitVec.ofBool b) (x₂ := 0#16) (x₃ := m)).symm

theorem mkFp_append (b : Bool) (e : BitVec 8) (m : BitVec 10) :
    mkFp b e (m ++ 0#13) = BitVec.ofBool b ++ e ++ m ++ 0#13 := by
  rw [mkFp]
  exact (BitVec.append_assoc (x₁ := BitVec.ofBool b ++ e) (x₂ := m) (x₃ := 0#13)).symm

/-- The modes that read a 16-bit cell. -/
theorem loads16_modes {m : Mode} (h0 : m ≠ 0#4) (h10 : m ≠ 10#4) (h : m ∉ [3#4, 4#4, 11#4, 12#4]) :
    loads32 m = false ∧ m ≠ 11#4 ∧ m ∈ [1#4, 2#4, 5#4, 6#4, 7#4, 8#4, 9#4, 13#4, 14#4, 15#4] := by
  revert m; decide

/-- The modes that read a 32-bit cell. -/
theorem loads32_modes {m : Mode} (h : m ∈ [3#4, 4#4, 12#4]) : loads32 m = true ∧ m ≠ 11#4 ∧ m ≠ 10#4 := by
  revert m; decide

theorem loadedFrom_fp16Load (c : Half) (old : Word) : LoadedFrom 1#4 c old (fp16Load c) := by
  show 1#5 ≤ c.extractLsb' 0 5 → c.extractLsb' 0 5 ≤ 30#5 → _ = _
  intro h1 h30
  have h0 : c.extractLsb' 0 5 ≠ 0#5 := fun h => absurd (h ▸ h1) (by decide)
  have h31 : c.extractLsb' 0 5 ≠ 31#5 := fun h => absurd (h ▸ h30) (by decide)
  simp only [fp16Load, h0, h31, or_self, if_false, rebias, mkFp_append, extract_one]

theorem loadedFrom_int8Load {m : Mode} (hm : m = 5#4 ∨ m = 13#4) (c : Half) (old : Word) :
    LoadedFrom m c old (int8Load c) := by
  have h : (int8Load c).extractLsb' 8 23 = 0#23 := by
    have hz : (Config.int8Load c).2.zeroExtend 31 = 0#23 ++ (Config.int8Load c).2 :=
      BitVec.setWidth_eq_append (by omega)
    rw [int8Load, mkSm, extract_append_low _ _ _ _ (by omega), hz]
    exact BitVec.extractLsb'_append_eq_left
  rcases hm with rfl | rfl <;> exact h

/-- `LoadConv` of a 16-bit cell is what R93 says. -/
theorem loadedFrom_loadConv16 {m : Mode} (hm : m ∈ [1#4, 2#4, 5#4, 6#4, 7#4, 8#4, 9#4, 13#4, 14#4, 15#4]) (c : Half)
    (old : Word) : LoadedFrom m c old (loadConv16 m c old) := by
  simp only [List.mem_cons, List.not_mem_nil, or_false] at hm
  rcases hm with rfl | rfl | rfl | rfl | rfl | rfl | rfl | rfl | rfl | rfl
  · exact loadedFrom_fp16Load c old
  · exact rfl
  · exact loadedFrom_int8Load (.inl rfl) c old
  · exact BitVec.setWidth_eq_append (by omega)
  · exact rfl
  · rw [LoadedFrom, extract_one]; exact mkSm_zeroExtend ..
  · exact BitVec.setWidth_eq_append (by omega)
  · exact loadedFrom_int8Load (.inr rfl) c old
  · exact rfl
  · exact rfl

end Load

/-- Settles O20: the value of every enabled lane is `LoadConv` of its cell. -/
theorem loadReadsSixteenBitCells : Obligations.LoadReadsSixteenBitCells := by
  intro vd mod0 am imm10 s cell hvd hmod hm hcell hissue
  obtain ⟨h32, h11, hmem⟩ :=
    loads16_modes (resolveMode_ne_zero s mod0) (mt (resolveMode_eq_iff (by decide)).1 hmod) hm
  have hvalue : ∀ l, laneEnabled s l = true → loadValue s vd (resolveMode s mod0) (destAddr s imm10) l =
      some (loadConv16 (resolveMode s mod0) (cell l) (s.lreg vd l)) := fun l hl => by
    have hc := hcell l hl
    rw [loadKey] at hc
    simp only [loadValue, loadConv, h11, h32, if_false, Bool.false_eq_true, hc, Option.map_some]
  obtain ⟨t, ht, hregs, hval, hdest, hframe⟩ :=
    load_completes hvd hmod _ (fun _ _ => beyondView_eq_false.2 (by simp [h32])) hvalue hissue
  exact ⟨t, ht, hregs, fun l hl => hval l hl ▸ loadedFrom_loadConv16 hmem _ _, hdest, hframe⟩

/-- Settles O21: the two halves of every enabled lane's cell make up the 32-bit cell that is unshuffled. -/
theorem loadReadsThirtyTwoBitCells : Obligations.LoadReadsThirtyTwoBitCells := by
  intro vd mod0 am imm10 s cell hvd hm hcell
  obtain ⟨h32, h11, h10⟩ := loads32_modes hm
  refine load_completes hvd (mt (resolveMode_eq_iff (by decide)).2 h10) _
    (fun l hl => beyondView_eq_false.2 fun _ => (hcell l hl).1) fun l hl => ?_
  obtain ⟨-, hhi, hlo⟩ := hcell l hl
  rw [loadHalves] at hhi hlo
  have hjoin : (cell l).extractLsb' 16 16 ++ (cell l).extractLsb' 0 16 = cell l :=
    BitVec.extractLsb'_append_extractLsb' (w := 16) (len := 16)
  simp only [loadValue, loadConv, h11, h32, if_false, if_true, Memory.read32, hhi, hlo, hjoin, Option.map_some]
  rfl

end Sys2Proof.Machine

/-! # SFPSTORE, and a load after a store (R52) -/

namespace Sys2Proof.Machine

section Store

variable {vd : Reg} {mod0 : Mode} {am : BitVec 3} {imm10 : BitVec 10} {s : State}

/-- SFPSTORE of an admitted source below the end of the view: it writes Dest and nothing else. -/
theorem store_completes (hvd : StoreSource s vd) (h10 : mod0 ≠ 10#4) (h11 : mod0 ≠ 11#4)
    (hview : ∀ l, laneEnabled s l = true → beyondView (stores32 (resolveMode s mod0)) (destAddr s imm10) l = false) :
    Completes (.sfpstore vd mod0 am imm10) s [] fun t =>
      t.dest = storeLanes s (resolveMode s mod0) (destAddr s imm10) vd ∧ KeepsRegs s t (fun _ _ => False) ∧
        AccessFrame s t am := by
  intro hissue
  obtain ⟨h12, hbackdoor⟩ := storeSource_iff.1 hvd
  have hrow : ∀ l, (laneEnabled s l && beyondView (stores32 (resolveMode s mod0)) (destAddr s imm10) l) = false :=
    fun l => by cases hl : laneEnabled s l <;> simp [hl, hview]
  have hexec : exec (.sfpstore vd mod0 am imm10) s = .next _ :=
    execSfpstore_next.2 ⟨formError_sfpstore.2 ⟨h10, h11, h12⟩, hbackdoor, hissue, hrow, rfl⟩
  exact ⟨_, hexec, rfl, fun _ _ _ => rfl,
    accessFrame_of_exec hexec trivial (movesRwc_applyAddrMod am rfl rfl) ⟨rfl, rfl, rfl⟩⟩

/-- What SFPSTORE has passed when it completes (R91, R96, R99). -/
theorem store_passed {t : State} (h : exec (.sfpstore vd mod0 am imm10) s = .next t) :
    StoreSource s vd ∧ mod0 ≠ 10#4 ∧ mod0 ≠ 11#4 ∧ MayIssue s [] ∧ ∀ l, laneEnabled s l = true →
      stores32 (resolveMode s mod0) = true → destRow (destAddr s imm10) l < 512 := by
  obtain ⟨hform, hbackdoor, hissue, hrow, -⟩ := execSfpstore_next.1 h
  obtain ⟨h10, h11, h12⟩ := formError_sfpstore.1 hform
  refine ⟨storeSource_iff.2 ⟨h12, hbackdoor⟩, h10, h11, hissue, fun l hl => beyondView_eq_false.1 ?_⟩
  simpa [hl] using hrow l

end Store

/-! ## The conversions of a store (R97) -/

theorem flush_eq_flushed (w : Word) : flush w = flushed w := by
  have hz : mkFp (signOf w) 0 0 = BitVec.ofBool (signOf w) ++ 0#31 :=
    BitVec.append_assoc (x₁ := BitVec.ofBool (signOf w)) (x₂ := 0#8) (x₃ := 0#23)
  rw [flush, flushed, extract_one, hz, expOf, signOf]

/-- The modes that write a 16-bit cell. -/
theorem stores16_modes {m : Mode} (h : m ∈ [1#4, 2#4, 5#4, 6#4, 8#4, 13#4, 14#4, 15#4]) :
    stores32 m = false ∧ m ≠ 10#4 ∧ m ≠ 11#4 := by
  revert m; decide

/-- The modes that write a 32-bit cell. -/
theorem stores32_modes {m : Mode} (h : m ∈ [3#4, 4#4, 7#4, 9#4, 12#4]) : stores32 m = true ∧ m ≠ 10#4 ∧ m ≠ 11#4 := by
  revert m; decide

/-- Every mode of a store that completes writes a 16-bit or a 32-bit cell. -/
theorem store_modes {m : Mode} (h0 : m ≠ 0#4) (h10 : m ≠ 10#4) (h11 : m ≠ 11#4) :
    m ∈ [1#4, 2#4, 5#4, 6#4, 8#4, 13#4, 14#4, 15#4] ∨ m ∈ [3#4, 4#4, 7#4, 9#4, 12#4] := by
  revert m; decide

theorem storedAs_fp16Store (w : Word) : StoredAs 1#4 w (fp16Store w) := by
  show 113#8 ≤ w.extractLsb' 23 8 → w.extractLsb' 23 8 ≤ 142#8 → w.extractLsb' 0 13 = 0#13 → _ = _
  intro h113 h142 hlow
  rw [fp16Store, expOf, if_pos ⟨h113, h142, hlow⟩, extract_one, signOf]

/-- `StoreConv` of a 16-bit cell is what R97 says. -/
theorem storedAs_storeConv16 {m : Mode} (hm : m ∈ [1#4, 2#4, 5#4, 6#4, 8#4, 13#4, 14#4, 15#4]) (w : Word)
    (free : Half) : StoredAs m w (storeConv16 m w free) := by
  simp only [List.mem_cons, List.not_mem_nil, or_false] at hm
  rcases hm with rfl | rfl | rfl | rfl | rfl | rfl | rfl | rfl
  · exact storedAs_fp16Store w
  · exact (congrArg (fun w => shuffle16 (hi16 w)) (flush_eq_flushed w)).trans (shuffle16_hi _)
  · trivial
  · exact rfl
  · exact fun h => if_pos h
  · trivial
  · exact rfl
  · exact rfl

/-- `StoreConv` of a 32-bit cell is what R97 says. -/
theorem storedAs32_storeConv32 {m : Mode} (hm : m ∈ [3#4, 4#4, 7#4, 9#4, 12#4]) (w : Word) (free : Half) :
    StoredAs32 m w (storeConv32 m w free) := by
  simp only [List.mem_cons, List.not_mem_nil, or_false] at hm
  rcases hm with rfl | rfl | rfl | rfl | rfl
  · exact congrArg shuffle32 (flush_eq_flushed w)
  · exact rfl
  · exact BitVec.extractLsb'_append_eq_left
  · exact rfl
  · exact rfl

/-- Settles O24, from what the fold over the lanes leaves in Dest. -/
theorem storeWritesSixteenBitCells : Obligations.StoreWritesSixteenBitCells := by
  intro vd mod0 am imm10 s hvd hm hissue
  obtain ⟨h32, h10, h11⟩ := stores16_modes hm
  obtain ⟨t, ht, hdest, hregs, hframe⟩ := store_completes (imm10 := imm10) hvd
    (mt (resolveMode_eq_iff (by decide)).2 h10) (mt (resolveMode_eq_iff (by decide)).2 h11)
    (fun _ _ => beyondView_eq_false.2 (by simp [h32])) hissue
  obtain ⟨hcell, hother⟩ := read_storeLanes16 (s := s) (imm10 := imm10) (vd := vd) h32
  rw [← hdest] at hcell hother
  exact ⟨t, ht, fun l hl => ⟨_, hcell l hl, storedAs_storeConv16 hm _ _⟩,
    fun k hk => hother k fun l hl he => hk ⟨l, hl, he⟩, hregs, hframe⟩

/-- Settles O25, as O24, with both halves of every cell. -/
theorem storeWritesThirtyTwoBitCells : Obligations.StoreWritesThirtyTwoBitCells := by
  intro vd mod0 am imm10 s hvd hm ho hrow hissue
  obtain ⟨h32, h10, h11⟩ := stores32_modes hm
  obtain ⟨t, ht, hdest, hregs, hframe⟩ := store_completes (imm10 := imm10) hvd
    (mt (resolveMode_eq_iff (by decide)).2 h10) (mt (resolveMode_eq_iff (by decide)).2 h11)
    (fun l hl => beyondView_eq_false.2 fun _ => hrow l hl) hissue
  obtain ⟨hcell, hother⟩ := read_storeLanes32 (s := s) (imm10 := imm10) (vd := vd) h32 ho hrow
  rw [← hdest] at hcell hother
  exact ⟨t, ht, fun l hl => ⟨_, (hcell l hl).1, (hcell l hl).2, storedAs32_storeConv32 hm _ _⟩,
    fun k hk => hother k fun l hl => ⟨fun he => hk ⟨l, hl, .inl he⟩, fun he => hk ⟨l, hl, .inr he⟩⟩, hregs, hframe⟩

/-! ## A load after a store (R52) -/

/-- An exponent of FP16 range survives the change of bias. -/
theorem rebias_exponent {e : BitVec 8} (h113 : 113#8 ≤ e) (h142 : e ≤ 142#8) :
    1#5 ≤ (e - 112#8).extractLsb' 0 5 ∧ (e - 112#8).extractLsb' 0 5 ≤ 30#5 ∧
      ((e - 112#8).extractLsb' 0 5).zeroExtend 8 + 112#8 = e := by
  revert e; decide

/-- Mode 1: an FP16 number comes back as it was. -/
theorem roundTrip_fp16 {w old v : Word} {c : Half} (hs : StoredAs 1#4 w c) (hl : LoadedFrom 1#4 c old v) :
    RoundTrip 1#4 w old v := by
  show 113#8 ≤ w.extractLsb' 23 8 → w.extractLsb' 23 8 ≤ 142#8 → w.extractLsb' 0 13 = 0#13 → v = w
  intro h113 h142 hlow
  obtain ⟨h1, h30, he⟩ := rebias_exponent h113 h142
  obtain rfl : c = _ := hs h113 h142 hlow
  obtain ⟨fs, fm, fe⟩ := extract_append3 (w.extractLsb' 31 1) (w.extractLsb' 13 10)
    ((w.extractLsb' 23 8 - 112#8).extractLsb' 0 5)
  have hv := hl (fe.symm ▸ h1) (fe.symm ▸ h30)
  rw [fs, fm, fe, he, ← hlow] at hv
  exact hv.trans (append_extract4 (a := 1) (b := 8) (c := 10) (d := 13) w)

/-- Mode 2: the upper half comes back. -/
theorem roundTrip_bf16 {w old v : Word} {c : Half} (hs : StoredAs 2#4 w c) (hl : LoadedFrom 2#4 c old v) :
    RoundTrip 2#4 w old v := by
  have hc : c = shuffle16 ((flushed w).extractLsb' 16 16) := Eq.trans hs (shuffle16_hi _).symm
  have hv : v = unshuffle16 c ++ 0#16 := hl
  rw [hc, unshuffle16_shuffle16] at hv
  exact hv

/-- Mode 8: a magnitude of 15 bits comes back. -/
theorem roundTrip_sm16 {w old v : Word} {c : Half} (hs : StoredAs 8#4 w c) (hl : LoadedFrom 8#4 c old v) :
    RoundTrip 8#4 w old v := by
  intro hmid
  obtain rfl : c = _ := hs hmid
  refine Eq.trans hl ?_
  rw [BitVec.extractLsb'_append_eq_left, BitVec.extractLsb'_append_eq_right, ← hmid]
  exact append_extract3 (a := 1) (b := 16) (c := 15) w

/-- A 16-bit cell, stored and loaded. -/
theorem roundTrip_of_stored16 {m : Mode} (hm : m ∈ [1#4, 2#4, 5#4, 6#4, 8#4, 13#4, 14#4, 15#4]) {w old v : Word}
    {c : Half} (hs : StoredAs m w c) (hl : LoadedFrom m c old v) : RoundTrip m w old v := by
  simp only [List.mem_cons, List.not_mem_nil, or_false] at hm
  rcases hm with rfl | rfl | rfl | rfl | rfl | rfl | rfl | rfl
  · exact roundTrip_fp16 hs hl
  · exact roundTrip_bf16 hs hl
  · exact hl
  · exact Eq.trans hl (congrArg (0#16 ++ ·) hs)
  · exact roundTrip_sm16 hs hl
  · exact hl
  · exact Eq.trans hl (congrArg (old.extractLsb' 16 16 ++ ·) hs)
  · exact Eq.trans hl (congrArg (· ++ old.extractLsb' 0 16) hs)

/-- A 32-bit cell, stored and loaded through the 32-bit view. -/
theorem roundTrip_of_stored32 {m : Mode} (hm : m ∈ [3#4, 4#4, 12#4]) {w d : Word} (old : Word) (hs : StoredAs32 m w d) :
    RoundTrip m w old (unshuffledWord d) := by
  simp only [List.mem_cons, List.not_mem_nil, or_false] at hm
  rcases hm with rfl | rfl | rfl
  · exact (congrArg unshuffle32 hs).trans (unshuffle32_shuffle32 (flushed w))
  · exact (congrArg unshuffle32 hs).trans (unshuffle32_shuffle32 w)
  · exact (congrArg unshuffle32 hs).trans (unshuffle32_shuffle32 w)

/-- A 32-bit cell whose upper half is loaded through the 16-bit view. -/
theorem roundTrip_of_stored32_loaded16 {m : Mode} (hm : m = 7#4 ∨ m = 9#4) {w d old v : Word} (hs : StoredAs32 m w d)
    (hl : LoadedFrom m (d.extractLsb' 16 16) old v) : RoundTrip m w old v := by
  rcases hm with rfl | rfl
  · exact Eq.trans hl (congrArg (· ++ 0#16) hs)
  · obtain rfl : d = _ := hs
    exact Eq.trans hl (congrArg (0#16 ++ ·) BitVec.extractLsb'_append_eq_left)

/-- What a load sees after a store of `s` that completed, with the address inputs of the store: the lanes, the inputs
and the overlay of `s`. -/
structure Reload (s s' : State) : Prop where
  enabled : ∀ l, laneEnabled s' l = laneEnabled s l
  lreg : ∀ r l, s'.lreg r l = s.lreg r l
  tensix : s'.tensix = s.tensix
  thread : s'.thread = s.thread
  overlay : s'.overlay = s.overlay
  issue : MayIssue s' []

theorem reload_of_store {s t : State} {am : BitVec 3} (hregs : KeepsRegs s t fun _ _ => False)
    (hf : AccessFrame s t am) : Reload s { t with tensix := s.tensix } := by
  obtain ⟨hflag, hswitch, -, -, hconfig, -, -, -, hoverlay, ⟨-, -, -, hthread⟩, ⟨-, -, hnop⟩⟩ := hf
  exact ⟨fun l => laneEnabled_congr (hconfig _) (hswitch l) (hflag l), fun r l => hregs l r id, rfl, hthread, hoverlay,
    hnop, nofun⟩

namespace Reload

variable {s s' : State} (hr : Reload s s') {vd : Reg} {mod0 : Mode} {am : BitVec 3} {imm10 : BitVec 10}

include hr

theorem resolveMode : resolveMode s' mod0 = resolveMode s mod0 := by
  simp only [Machine.resolveMode, hr.tensix]

theorem destAddr : destAddr s' imm10 = destAddr s imm10 := by
  simp only [Machine.destAddr, State.rwc, hr.tensix, hr.thread]

theorem loadKey (hx : s.tensix.destRdColExchange = false) (l : LaneIx) : loadKey s' imm10 l = storeKey s imm10 l := by
  simp only [Machine.loadKey, storeKey, hr.destAddr, hr.tensix, hx]

theorem loadHalves (hx : s.tensix.destRdColExchange = false) (l : LaneIx) :
    loadHalves s' imm10 l = storeHalves s imm10 l := by
  simp only [Machine.loadHalves, storeHalves, hr.destAddr, hr.tensix, hr.overlay, hx]

/-- The load reads the 16-bit cells of the store. -/
theorem load16 (hvd : vd < 8#4) (hx : s.tensix.destRdColExchange = false) (h10 : mod0 ≠ 10#4)
    (hm : Machine.resolveMode s mod0 ∉ [3#4, 4#4, 11#4, 12#4]) {cell : LaneIx → Half}
    (hcell : ∀ l, laneEnabled s l = true → s'.dest.read (storeKey s imm10 l) = some (cell l)) :
    ∃ u, exec (.sfpload vd mod0 am imm10) s' = .next u ∧ ∀ l, laneEnabled s l = true →
      LoadedFrom (Machine.resolveMode s mod0) (cell l) (s.lreg vd l) (u.lreg vd l) := by
  have h := loadReadsSixteenBitCells vd mod0 am imm10 s' cell hvd h10
  simp only [hr.resolveMode, hr.loadKey hx, hr.enabled, hr.lreg] at h
  obtain ⟨u, hu, -, hval, -⟩ := h hm hcell hr.issue
  exact ⟨u, hu, hval⟩

/-- The load reads the 32-bit cells of the store. -/
theorem load32 (hvd : vd < 8#4) (hx : s.tensix.destRdColExchange = false)
    (hm : Machine.resolveMode s mod0 ∈ [3#4, 4#4, 12#4]) {cell : LaneIx → Word}
    (hcell : ∀ l, laneEnabled s l = true → destRow (Machine.destAddr s imm10) l < 512 ∧
      s'.dest.read (storeHalves s imm10 l).1 = some ((cell l).extractLsb' 16 16) ∧
      s'.dest.read (storeHalves s imm10 l).2 = some ((cell l).extractLsb' 0 16)) :
    ∃ u, exec (.sfpload vd mod0 am imm10) s' = .next u ∧ ∀ l, laneEnabled s l = true →
      u.lreg vd l = unshuffledWord (cell l) := by
  have h := loadReadsThirtyTwoBitCells vd mod0 am imm10 s' cell hvd
  simp only [hr.resolveMode, hr.destAddr, hr.loadHalves hx, hr.enabled] at h
  obtain ⟨u, hu, -, hval, -⟩ := h hm hcell hr.issue
  exact ⟨u, hu, hval⟩

end Reload

/-- The modes that write a 32-bit cell, by the view in which they read. -/
theorem stores32_modes_read {m : Mode} (h : m ∈ [3#4, 4#4, 7#4, 9#4, 12#4]) :
    m ∈ [3#4, 4#4, 12#4] ∨ (m = 7#4 ∨ m = 9#4) ∧ m ∉ [3#4, 4#4, 11#4, 12#4] := by
  revert m; decide

/-- The modes that write a 16-bit cell read one. -/
theorem stores16_modes_read {m : Mode} (h : m ∈ [1#4, 2#4, 5#4, 6#4, 8#4, 13#4, 14#4, 15#4]) :
    m ∉ [3#4, 4#4, 11#4, 12#4] := by
  revert m; decide

/-- Settles O26, from what the store leaves in the cells (O24, O25) and what the load makes of them (O20, O21). -/
theorem loadAfterStoreReturnsTheDatum : Obligations.LoadAfterStoreReturnsTheDatum := by
  intro vs vd mod0 am am' imm10 s t hvd hx ho hsame hstore
  obtain ⟨hsrc, h10, h11, hissue, hrow⟩ := store_passed hstore
  have hunique : ∀ {t'}, exec (.sfpstore vs mod0 am imm10) s = .next t' → t' = t := fun h =>
    Host.Outcome.next.inj (h.symm.trans hstore)
  rcases store_modes (resolveMode_ne_zero s mod0) (mt (resolveMode_eq_iff (by decide)).1 h10)
    (mt (resolveMode_eq_iff (by decide)).1 h11) with hm | hm
  · obtain ⟨t', ht, hcell, -, hregs, hframe⟩ := storeWritesSixteenBitCells vs mod0 am imm10 s hsrc hm hissue
    obtain rfl := hunique ht
    choose! cell hread hstored using hcell
    obtain ⟨u, hu, hval⟩ := (reload_of_store hregs hframe).load16 hvd hx h10 (stores16_modes_read hm) hread
    exact ⟨u, hu, fun l hl => roundTrip_of_stored16 hm (hstored l hl) (hval l hl)⟩
  · have hrow := fun l hl => hrow l hl (stores32_modes hm).1
    obtain ⟨t', ht, hcell, -, hregs, hframe⟩ := storeWritesThirtyTwoBitCells vs mod0 am imm10 s hsrc hm ho hrow hissue
    obtain rfl := hunique ht
    choose! cell hhi hlo hstored using hcell
    have hr := reload_of_store hregs hframe
    rcases stores32_modes_read hm with hm | ⟨h79, hm⟩
    · obtain ⟨u, hu, hval⟩ := hr.load32 hvd hx hm fun l hl => ⟨hrow l hl, hhi l hl, hlo l hl⟩
      exact ⟨u, hu, fun l hl => hval l hl ▸ roundTrip_of_stored32 hm _ (hstored l hl)⟩
    · obtain ⟨u, hu, hval⟩ := hr.load16 hvd hx h10 hm fun l hl => hsame h79 l hl ▸ hhi l hl
      exact ⟨u, hu, fun l hl => roundTrip_of_stored32_loaded16 h79 (hstored l hl) (hval l hl)⟩

end Sys2Proof.Machine

/-! # The encoding (`30_encoding.md` R71, R74, R75): a word decodes to an instruction exactly if it is its encoding -/

namespace Sys2Proof

/-! ## Fields of joined vectors -/

/-- A field is a join exactly if its upper and its lower part are the two joined vectors. -/
theorem extract_eq_append_iff {n m k N : Nat} {a : BitVec n} {b : BitVec m} {w : BitVec N} :
    w.extractLsb' k (n + m) = a ++ b ↔ w.extractLsb' (m + k) n = a ∧ w.extractLsb' k m = b := by
  constructor
  · intro h
    have ha : (a ++ b).extractLsb' m n = a := BitVec.extractLsb'_append_eq_left
    have hb : (a ++ b).extractLsb' 0 m = b := BitVec.extractLsb'_append_eq_right
    rw [← h, Machine.extract_extract _ (by omega)] at ha hb
    exact ⟨Nat.add_comm k m ▸ ha, hb⟩
  · rintro ⟨rfl, rfl⟩
    exact (BitVec.extractLsb'_append_extractLsb'_eq_extractLsb' (Nat.add_comm m k)).symm

/-- A vector is a join exactly if its upper and its lower part are the two joined vectors. -/
theorem eq_append_iff {n m : Nat} (a : BitVec n) (b : BitVec m) (w : BitVec (n + m)) :
    w = a ++ b ↔ w.extractLsb' m n = a ∧ w.extractLsb' 0 m = b := by
  simpa only [extract_all, Nat.add_zero] using extract_eq_append_iff (k := 0) (a := a) (b := b) (w := w)

/-! ## The layouts of R74: a word joins an opcode byte and some fields exactly if it holds each in its place -/

section Layouts

variable {w : BitVec 32} {op : BitVec 8}

/-- Format `LS`. -/
theorem eq_ls_iff {vd mod0 : BitVec 4} {addrMod zero : BitVec 3} {imm10 : BitVec 10} :
    w = op ++ vd ++ mod0 ++ addrMod ++ zero ++ imm10 ↔
      w.extractLsb' 24 8 = op ∧ w.extractLsb' 20 4 = vd ∧ w.extractLsb' 16 4 = mod0 ∧
      w.extractLsb' 13 3 = addrMod ∧ w.extractLsb' 10 3 = zero ∧ w.extractLsb' 0 10 = imm10 := by
  rw [eq_append_iff (op ++ vd ++ mod0 ++ addrMod ++ zero) imm10]
  simp only [↓extract_eq_append_iff, and_assoc, Nat.reduceAdd]

/-- Format `LI`. -/
theorem eq_li_iff {vd mod0 : BitVec 4} {imm16 : BitVec 16} :
    w = op ++ vd ++ mod0 ++ imm16 ↔
      w.extractLsb' 24 8 = op ∧ w.extractLsb' 20 4 = vd ∧ w.extractLsb' 16 4 = mod0 ∧
      w.extractLsb' 0 16 = imm16 := by
  rw [eq_append_iff (op ++ vd ++ mod0) imm16]
  simp only [↓extract_eq_append_iff, and_assoc, Nat.reduceAdd]

/-- Format `MAD`. -/
theorem eq_mad_iff {zero va vb vc vd mod1 : BitVec 4} :
    w = op ++ zero ++ va ++ vb ++ vc ++ vd ++ mod1 ↔
      w.extractLsb' 24 8 = op ∧ w.extractLsb' 20 4 = zero ∧ w.extractLsb' 16 4 = va ∧
      w.extractLsb' 12 4 = vb ∧ w.extractLsb' 8 4 = vc ∧ w.extractLsb' 4 4 = vd ∧
      w.extractLsb' 0 4 = mod1 := by
  rw [eq_append_iff (op ++ zero ++ va ++ vb ++ vc ++ vd) mod1]
  simp only [↓extract_eq_append_iff, and_assoc, Nat.reduceAdd]

/-- Format `I16`, and `LUT` with a zero in the place of `Imm16`. -/
theorem eq_i16_iff {imm16 : BitVec 16} {vd mod1 : BitVec 4} :
    w = op ++ imm16 ++ vd ++ mod1 ↔
      w.extractLsb' 24 8 = op ∧ w.extractLsb' 8 16 = imm16 ∧ w.extractLsb' 4 4 = vd ∧
      w.extractLsb' 0 4 = mod1 := by
  rw [eq_append_iff (op ++ imm16 ++ vd) mod1]
  simp only [↓extract_eq_append_iff, and_assoc, Nat.reduceAdd]

/-- Format `I12` with an `X` of all 12 bits, and `CAST` with a zero in its place. -/
theorem eq_i12_iff {x : BitVec 12} {vc vd mod1 : BitVec 4} :
    w = op ++ x ++ vc ++ vd ++ mod1 ↔
      w.extractLsb' 24 8 = op ∧ w.extractLsb' 12 12 = x ∧ w.extractLsb' 8 4 = vc ∧
      w.extractLsb' 4 4 = vd ∧ w.extractLsb' 0 4 = mod1 := by
  rw [eq_append_iff (op ++ x ++ vc ++ vd) mod1]
  simp only [↓extract_eq_append_iff, and_assoc, Nat.reduceAdd]

/-- Format `I12` with an `X` of 8 bits. -/
theorem eq_i12Imm8_iff {zero : BitVec 4} {imm8 : BitVec 8} {vc vd mod1 : BitVec 4} :
    w = op ++ zero ++ imm8 ++ vc ++ vd ++ mod1 ↔
      w.extractLsb' 24 8 = op ∧ w.extractLsb' 20 4 = zero ∧ w.extractLsb' 12 8 = imm8 ∧
      w.extractLsb' 8 4 = vc ∧ w.extractLsb' 4 4 = vd ∧ w.extractLsb' 0 4 = mod1 := by
  rw [eq_append_iff (op ++ zero ++ imm8 ++ vc ++ vd) mod1]
  simp only [↓extract_eq_append_iff, and_assoc, Nat.reduceAdd]

/-- Format `I12` with an `X` of 4 bits. -/
theorem eq_i12Vb_iff {zero : BitVec 8} {vb vc vd mod1 : BitVec 4} :
    w = op ++ zero ++ vb ++ vc ++ vd ++ mod1 ↔
      w.extractLsb' 24 8 = op ∧ w.extractLsb' 16 8 = zero ∧ w.extractLsb' 12 4 = vb ∧
      w.extractLsb' 8 4 = vc ∧ w.extractLsb' 4 4 = vd ∧ w.extractLsb' 0 4 = mod1 := by
  rw [eq_append_iff (op ++ zero ++ vb ++ vc ++ vd) mod1]
  simp only [↓extract_eq_append_iff, and_assoc, Nat.reduceAdd]

/-- Format `I12` with an `X` of 2 bits. -/
theorem eq_i12Imm2_iff {zero : BitVec 10} {imm2 : BitVec 2} {vc vd mod1 : BitVec 4} :
    w = op ++ zero ++ imm2 ++ vc ++ vd ++ mod1 ↔
      w.extractLsb' 24 8 = op ∧ w.extractLsb' 14 10 = zero ∧ w.extractLsb' 12 2 = imm2 ∧
      w.extractLsb' 8 4 = vc ∧ w.extractLsb' 4 4 = vd ∧ w.extractLsb' 0 4 = mod1 := by
  rw [eq_append_iff (op ++ zero ++ imm2 ++ vc ++ vd) mod1]
  simp only [↓extract_eq_append_iff, and_assoc, Nat.reduceAdd]

/-- Format `I12` with an `X` of 1 bit. -/
theorem eq_i12Imm1_iff {zero : BitVec 11} {imm1 : BitVec 1} {vc vd mod1 : BitVec 4} :
    w = op ++ zero ++ imm1 ++ vc ++ vd ++ mod1 ↔
      w.extractLsb' 24 8 = op ∧ w.extractLsb' 13 11 = zero ∧ w.extractLsb' 12 1 = imm1 ∧
      w.extractLsb' 8 4 = vc ∧ w.extractLsb' 4 4 = vd ∧ w.extractLsb' 0 4 = mod1 := by
  rw [eq_append_iff (op ++ zero ++ imm1 ++ vc ++ vd) mod1]
  simp only [↓extract_eq_append_iff, and_assoc, Nat.reduceAdd]

/-- Format `RND`. -/
theorem eq_rnd_iff {zero : BitVec 1} {roundingMode : BitVec 2} {imm5 : BitVec 5} {vb vc vd : BitVec 4}
    {useImm5 : BitVec 1} {mod1 : BitVec 3} :
    w = op ++ zero ++ roundingMode ++ imm5 ++ vb ++ vc ++ vd ++ useImm5 ++ mod1 ↔
      w.extractLsb' 24 8 = op ∧ w.extractLsb' 23 1 = zero ∧ w.extractLsb' 21 2 = roundingMode ∧
      w.extractLsb' 16 5 = imm5 ∧ w.extractLsb' 12 4 = vb ∧ w.extractLsb' 8 4 = vc ∧
      w.extractLsb' 4 4 = vd ∧ w.extractLsb' 3 1 = useImm5 ∧ w.extractLsb' 0 3 = mod1 := by
  rw [eq_append_iff (op ++ zero ++ roundingMode ++ imm5 ++ vb ++ vc ++ vd ++ useImm5) mod1]
  simp only [↓extract_eq_append_iff, and_assoc, Nat.reduceAdd]

/-- Format `NOP`. -/
theorem eq_nop_iff {zero : BitVec 24} :
    w = op ++ zero ↔ w.extractLsb' 24 8 = op ∧ w.extractLsb' 0 24 = zero := by
  exact eq_append_iff op zero w

end Layouts

/-! ## The decoder -/

/-- A word with zero positions is read exactly if they are zero. -/
theorem zeros_eq_ok_iff {mnemonic : String} {allZero : Bool} {i j : Instr} :
    zeros mnemonic allZero i = .ok j ↔ allZero = true ∧ i = j := by
  cases allZero <;> simp [zeros]

/-- An instruction is read only at its own opcode byte. -/
theorem opcode_of_decodeFields {op : Nat} {w : BitVec 32} {i : Instr} (h : decodeFields op w = .ok i) :
    (opcode i).toNat = op := by
  unfold decodeFields at h
  split at h
  case h_42 => cases h
  case h_2 | h_4 | h_5 | h_9 | h_10 | h_19 | h_33 | h_36 => cases h; rfl
  all_goals
    obtain ⟨-, rfl⟩ := zeros_eq_ok_iff.1 h
    rfl

/-- Outside the list of R74 every word is refused: at each byte of the list there is an instruction, the one with
operands 0. -/
theorem decodeFields_of_no_opcode {op : Nat} (w : BitVec 32) (h : ∀ i, (opcode i).toNat ≠ op) :
    decodeFields op w = .error (.notSfpu (BitVec.ofNat 8 op)) := by
  unfold decodeFields
  split
  case h_42 => rfl
  all_goals exact (h _ (opcode_of_decodeFields (w := 0#32) rfl)).elim

/-- A word is the encoding of an instruction exactly if it has its opcode byte and the decoder reads the instruction
there: both say the same about the fields of its layout. -/
theorem eq_encode_iff {w : BitVec 32} {i : Instr} :
    w = encode i ↔ w.extractLsb' 24 8 = opcode i ∧ decodeFields (opcode i).toNat w = .ok i := by
  cases i
  case sfpload | sfpstore | sfploadmacro =>
    rw [encode, eq_ls_iff]
    simp [opcode, decodeFields, zeros_eq_ok_iff, and_left_comm]
  case sfploadi =>
    rw [encode, eq_li_iff]
    simp [opcode, decodeFields]
  case sfpmad | sfpadd | sfpmul | sfpmul24 =>
    rw [encode, eq_mad_iff]
    simp [opcode, decodeFields, zeros_eq_ok_iff]
  case sfpmuli | sfpaddi | sfpconfig | sfplutfp32 =>
    rw [encode, eq_i16_iff]
    simp [opcode, decodeFields, zeros_eq_ok_iff]
  case sfpiadd | sfpshft | sfpsetman | sfpshft2 | sfpexexp | sfpexman | sfpmov | sfpabs | sfpnot | sfplz | sfppushc |
      sfppopc | sfpcompc | sfptransp | sfpxor | sfpcast | sfpswap | sfple | sfpgt =>
    rw [encode, eq_i12_iff]
    simp [opcode, decodeFields, zeros_eq_ok_iff, and_assoc]
  case sfpdivp2 | sfpsetexp =>
    rw [encode, eq_i12Imm8_iff]
    simp [opcode, decodeFields, zeros_eq_ok_iff]
  case sfpand | sfpor | sfparecip =>
    rw [encode, eq_i12Vb_iff]
    simp [opcode, decodeFields, zeros_eq_ok_iff]
  case sfpencc =>
    rw [encode, eq_i12Imm2_iff]
    simp [opcode, decodeFields, zeros_eq_ok_iff, and_assoc, and_left_comm]
  case sfpsetcc | sfpsetsgn =>
    rw [encode, eq_i12Imm1_iff]
    simp [opcode, decodeFields, zeros_eq_ok_iff]
  case sfpstochrnd =>
    rw [encode, eq_rnd_iff]
    simp [opcode, decodeFields, zeros_eq_ok_iff, and_comm]
  case sfpnop =>
    rw [encode, eq_nop_iff]
    simp [opcode, decodeFields, zeros_eq_ok_iff]

/-- The decoder and the encoder are the same relation between words and instructions. -/
theorem decode_eq_ok_iff {w : BitVec 32} {i : Instr} : decode w = .ok i ↔ w = encode i := by
  rw [eq_encode_iff, decode]
  constructor
  · intro h
    have hop := opcode_of_decodeFields h
    exact ⟨BitVec.eq_of_toNat_eq hop.symm, hop ▸ h⟩
  · rintro ⟨hop, h⟩
    rwa [hop]

/-! ## The obligations -/

/-- Settles O6, from the equivalence of decoding and encoding. -/
theorem decodeOfEncodeIsTheInstruction : Obligations.DecodeOfEncodeIsTheInstruction :=
  fun _ => decode_eq_ok_iff.2 rfl

/-- Settles O7: the first part is the equivalence of decoding and encoding, the second the last row of the decoder. -/
theorem decodableWordsAreEncodings : Obligations.DecodableWordsAreEncodings := by
  refine ⟨fun w i h => (decode_eq_ok_iff.1 h).symm, fun w hop => ?_⟩
  rw [decode, decodeFields_of_no_opcode w fun i h => hop i (BitVec.eq_of_toNat_eq h.symm), BitVec.ofNat_toNat,
    BitVec.setWidth_eq]

/-- Settles O5: each word is joined from the fields of the instruction that it stands for. -/
theorem sampleWordsDecodeToTheirInstructions : Obligations.SampleWordsDecodeToTheirInstructions := by
  simp only [Obligations.SampleWordsDecodeToTheirInstructions, decode_eq_ok_iff]
  decide

end Sys2Proof

/-! # How an instruction stops: the faults of SFPLOAD and SFPSTORE (R91, R94, R241, R244), and SFPLOAD at its edges -/

namespace Sys2Proof.Machine

/-! ## An instruction that has passed a check -/

theorem admitted_of_formError_none {i : Instr} {k : Result} (h : formError i = none) : admitted i k = k := by
  rw [admitted, h]

theorem issue_of_mayIssue {s : State} {reads : List Reg} {k : Result} (h : MayIssue s reads) : issue s reads k = k := by
  obtain ⟨hnop, hreads⟩ := h
  have hany : reads.any (fun r => s.pending.contains r) = false := by simpa using hreads
  rw [issue, hnop, hany]; rfl

/-! ## The fault of the lowest lane (R244) -/

theorem firstLane_eq_some {p : LaneIx → Bool} {l : LaneIx} :
    firstLane p = some l ↔ p l = true ∧ ∀ k, k < l → p k = false := by
  rw [firstLane, ← Fin.find?_eq_find?_finRange]
  exact Fin.find?_eq_some_iff

theorem faultIf_of_lowest {bad : LaneIx → Bool} {f : Nat → Fault} {k : Result} {l : LaneIx} (hl : bad l = true)
    (hlow : ∀ j, j < l → bad j = false) : faultIf bad f k = .fault (f l.val) := by
  rw [faultIf, firstLane_eq_some.2 ⟨hl, hlow⟩]

theorem faultIf_of_none {bad : LaneIx → Bool} {f : Nat → Fault} {k : Result} (h : ∀ l, bad l = false) :
    faultIf bad f k = k := by
  rw [faultIf, firstLane_none.2 h]

/-! ## Rows beyond the 32-bit view (R91) -/

theorem beyondView_eq_true {view32 : Bool} {addr : Nat} {l : LaneIx} :
    beyondView view32 addr l = true ↔ view32 = true ∧ 512 ≤ destRow addr l := by
  rw [beyondView, Bool.and_eq_true, decide_eq_true_iff]; rfl

/-- The four rows of an access lie on one side of row 512, the side of its address. -/
theorem le_destRow_iff {addr : Nat} {l : LaneIx} : 512 ≤ destRow addr l ↔ 512 ≤ addr := by
  have := l.isLt
  rw [destRow_eq]; omega

section Access

variable {vd : Reg} {mod0 mode : Mode} {am : BitVec 3} {imm10 : BitVec 10} {s : State} {l : LaneIx}

/-! ## SFPLOAD at its edges (R92, R93) -/

/-- SFPLOAD with VD 8 to 15 only advances (R92). -/
theorem load_high (hvd : 8#4 ≤ vd) (hmod : mod0 ≠ 10#4) (hissue : MayIssue s []) :
    exec (.sfpload vd mod0 am imm10) s = .next (s.retire []) :=
  execSfpload_next.2 ⟨formError_sfpload.2 hmod, hissue, .inl ⟨decide_eq_false (BitVec.not_lt.2 hvd), rfl⟩⟩

/-- Mode 11 has a value whatever Dest holds (R93). -/
theorem loadValue_zero : loadValue s vd 11#4 (destAddr s imm10) l = some 0#32 := by
  rw [loadValue, loadConv, if_pos rfl]

/-! ## The lanes in which SFPLOAD has no value (R94 (3)) -/

theorem loadValue_eq_none16 (h32 : loads32 mode = false) (h11 : mode ≠ 11#4) :
    loadValue s vd mode (destAddr s imm10) l = none ↔ s.dest.read (loadKey s imm10 l) = none := by
  simp only [loadValue, loadConv, h11, h32, if_false, Bool.false_eq_true, Option.map_eq_none_iff, loadKey]

theorem Memory.read32_eq_none {o : Overlay} {m : Memory} {row col : Nat} : m.read32 o row col = none ↔
    m.read (o.halfKeys row col).1 = none ∨ m.read (o.halfKeys row col).2 = none := by
  unfold Memory.read32
  cases m.read (o.halfKeys row col).1 <;> cases m.read (o.halfKeys row col).2 <;> simp

theorem loadValue_eq_none32 (h32 : loads32 mode = true) (h11 : mode ≠ 11#4) :
    loadValue s vd mode (destAddr s imm10) l = none ↔
      s.dest.read (loadHalves s imm10 l).1 = none ∨ s.dest.read (loadHalves s imm10 l).2 = none := by
  simp only [loadValue, loadConv, h11, h32, if_false, if_true, Option.map_eq_none_iff, Memory.read32_eq_none, loadHalves]

/-! ## The faults of an access -/

/-- SFPLOAD into a general register that has issued: the check of the cells comes first, then that of the rows. -/
theorem exec_load_gpr (hvd : vd < 8#4) (hmod : mod0 ≠ 10#4) (hissue : MayIssue s []) :
    exec (.sfpload vd mod0 am imm10) s =
      faultIf (fun l => laneEnabled s l && !beyondView (loads32 (resolveMode s mod0)) (destAddr s imm10) l &&
        (loadValue s vd (resolveMode s mod0) (destAddr s imm10) l).isNone) (.unwrittenRead s.pos)
      (faultIf (fun l => laneEnabled s l && beyondView (loads32 (resolveMode s mod0)) (destAddr s imm10) l)
        (.destRange s.pos)
      (.next (((s.writeLanes (fun _ => vd) fun l =>
        (loadValue s vd (resolveMode s mod0) (destAddr s imm10) l).getD 0#32).applyAddrMod am).retire []))) :=
  (admitted_of_formError_none (formError_sfpload.2 hmod)).trans
    ((issue_of_mayIssue hissue).trans (if_neg (by simp [hvd])))

/-- The lowest enabled lane without a value, its row in the view, is the one that an `UnwrittenRead` names. -/
theorem load_unwrittenRead (hvd : vd < 8#4) (hmod : mod0 ≠ 10#4) (hissue : MayIssue s [])
    (hl : laneEnabled s l = true)
    (hview : beyondView (loads32 (resolveMode s mod0)) (destAddr s imm10) l = false)
    (hnone : loadValue s vd (resolveMode s mod0) (destAddr s imm10) l = none)
    (hlow : ∀ k, k < l → laneEnabled s k = true →
      loadValue s vd (resolveMode s mod0) (destAddr s imm10) k ≠ none) :
    exec (.sfpload vd mod0 am imm10) s = .fault (.unwrittenRead s.pos l.val) := by
  rw [exec_load_gpr hvd hmod hissue]
  refine faultIf_of_lowest (by simp [hl, hview, hnone]) fun j hj => ?_
  cases he : laneEnabled s j
  · rfl
  · simp [Option.isNone_eq_false_iff, Option.isSome_iff_ne_none, hlow j hj he]

/-- At an address of 512 or more no lane reaches a cell, so the check of the cells passes and that of the rows faults. -/
theorem load_destRange (hvd : vd < 8#4) (hmod : mod0 ≠ 10#4) (hissue : MayIssue s []) (hl : laneEnabled s l = true)
    (hview : ∀ k, beyondView (loads32 (resolveMode s mod0)) (destAddr s imm10) k = true)
    (hlow : ∀ k, k < l → laneEnabled s k = false) :
    exec (.sfpload vd mod0 am imm10) s = .fault (.destRange s.pos l.val) := by
  rw [exec_load_gpr hvd hmod hissue, faultIf_of_none fun j => by simp [hview j]]
  exact faultIf_of_lowest (by simp [hl, hview l]) fun j hj => by simp [hlow j hj]

theorem store_destRange (hvd : StoreSource s vd) (h10 : mod0 ≠ 10#4) (h11 : mod0 ≠ 11#4) (hissue : MayIssue s [])
    (hl : laneEnabled s l = true)
    (hview : beyondView (stores32 (resolveMode s mod0)) (destAddr s imm10) l = true)
    (hlow : ∀ k, k < l → laneEnabled s k = false) :
    exec (.sfpstore vd mod0 am imm10) s = .fault (.destRange s.pos l.val) := by
  obtain ⟨h12, hbackdoor⟩ := storeSource_iff.1 hvd
  refine (admitted_of_formError_none (formError_sfpstore.2 ⟨h10, h11, h12⟩)).trans ?_
  rw [hbackdoor]
  exact (issue_of_mayIssue hissue).trans
    (faultIf_of_lowest (by simp [hl, hview]) fun j hj => by simp [hlow j hj])

end Access

/-- Settles O22: VD 8 to 15 leaves by the first check, mode 11 has the value 0 in every lane whatever Dest holds. -/
theorem loadEdgeForms : Obligations.LoadEdgeForms := by
  refine ⟨fun vd mod0 am imm10 s hvd hmod hissue => load_high hvd hmod hissue, fun vd am imm10 s hvd => ?_,
    fun s mod0 => ⟨resolveMode_of_ne, if_pos rfl⟩⟩
  have h11 : resolveMode s 11 = 11#4 := resolveMode_of_ne (by decide)
  exact load_completes hvd (by decide) (fun _ => 0#32) (fun l _ => by rw [h11]; rfl)
    fun l _ => h11 ▸ loadValue_zero

/-- Settles O23: a 16-bit cell, a 32-bit cell inside the view, and a row beyond it, each at the lowest lane. -/
theorem accessFaultsNameTheLowestLane : Obligations.AccessFaultsNameTheLowestLane := by
  refine ⟨fun vd mod0 am imm10 s l hvd hmod hm hissue hl hcell hlow => ?_,
    fun vd mod0 am imm10 s l hvd hm hissue hl haddr hcell hlow => ?_,
    fun vd mod0 am imm10 s l hissue haddr hl hlow => ⟨fun hvd hm => ?_, fun hsrc hm => ?_⟩⟩
  · obtain ⟨h32, h11, -⟩ :=
      loads16_modes (resolveMode_ne_zero s mod0) (mt (resolveMode_eq_iff (by decide)).1 hmod) hm
    exact load_unwrittenRead hvd hmod hissue hl (beyondView_eq_false.2 (by simp [h32]))
      ((loadValue_eq_none16 h32 h11).2 hcell) fun k hk he => mt (loadValue_eq_none16 h32 h11).1 (hlow k hk he)
  · obtain ⟨h32, h11, h10⟩ := loads32_modes hm
    have hrow : destRow (destAddr s imm10) l < 512 := Nat.lt_of_not_le (mt le_destRow_iff.1 (Nat.not_le.2 haddr))
    exact load_unwrittenRead hvd (mt (resolveMode_eq_iff (by decide)).2 h10) hissue hl
      (beyondView_eq_false.2 fun _ => hrow) ((loadValue_eq_none32 h32 h11).2 hcell)
      fun k hk he => mt (loadValue_eq_none32 h32 h11).1 (not_or.2 (hlow k hk he))
  · obtain ⟨h32, -, h10⟩ := loads32_modes hm
    exact load_destRange hvd (mt (resolveMode_eq_iff (by decide)).2 h10) hissue hl
      (fun k => beyondView_eq_true.2 ⟨h32, le_destRow_iff.2 haddr⟩) hlow
  · obtain ⟨h32, h10, h11⟩ := stores32_modes hm
    exact store_destRange hsrc (mt (resolveMode_eq_iff (by decide)).2 h10) (mt (resolveMode_eq_iff (by decide)).2 h11)
      hissue hl (beyondView_eq_true.2 ⟨h32, le_destRow_iff.2 haddr⟩) hlow

end Sys2Proof.Machine

/-! # Rounding to FP32 (`41_mad.md` R110): magnitudes as numbers, and the nearest of them -/

namespace Sys2Proof.Machine

/-! ## Fields of a word -/

/-- Sign and magnitude of a sign-magnitude word. -/
theorem fields_mkSm (s : Bool) (mag : BitVec 31) : signOf (mkSm s mag) = s ∧ magOf (mkSm s mag) = mag := by
  refine ⟨?_, BitVec.extractLsb'_append_eq_right⟩
  rw [signOf, mkSm, BitVec.getLsbD_append]
  simp

/-- The fields of a word put together from fields. -/
theorem fields_mkFp (s : Bool) (e : BitVec 8) (m : BitVec 23) :
    signOf (mkFp s e m) = s ∧ expOf (mkFp s e m) = e ∧ manOf (mkFp s e m) = m := by
  obtain ⟨-, he, hm⟩ := extract_append3 (BitVec.ofBool s) e m
  have hsm : mkFp s e m = mkSm s (e ++ m) := BitVec.append_assoc (x₁ := BitVec.ofBool s) (x₂ := e) (x₃ := m)
  exact ⟨hsm ▸ (fields_mkSm s (e ++ m)).1, he, hm⟩

/-- The zero of a sign. -/
theorem mkFp_zero (s : Bool) : mkFp s 0 0 = BitVec.ofBool s ++ 0#31 :=
  BitVec.append_assoc (x₁ := BitVec.ofBool s) (x₂ := 0#8) (x₃ := 0#23)

theorem mkFp_zero_eq_signedZero (s : Bool) : mkFp s 0 0 = signedZero s := by cases s <;> rfl

theorem inf_eq_infinity (s : Bool) : inf s = infinity s := by cases s <;> rfl

/-- The magnitude is the exponent and the mantissa in one number. -/
theorem magOf_eq (w : Word) : (magOf w).toNat = (expOf w).toNat * 2 ^ 23 + (manOf w).toNat := by
  rw [magOf_toNat, expOf_toNat, manOf_toNat]; omega

/-- A word with its sign bit cleared (R116 `Abs`). -/
theorem and_mag (w : Word) : w &&& 0x7FFFFFFF#32 = 0#1 ++ magOf w := by
  apply BitVec.eq_of_toNat_eq
  rw [BitVec.toNat_and, toNat_append_add, magOf_toNat]
  simpa using Nat.and_two_pow_sub_one_eq_mod w.toNat 31

/-- A word is its sign and its magnitude. -/
theorem mkSm_signOf_magOf (w : Word) : mkSm (signOf w) (magOf w) = w := by
  rw [mkSm, magOf, signOf, ← extract_one]
  exact BitVec.extractLsb'_append_extractLsb'

/-- Exponent and mantissa of a sign-magnitude word. -/
theorem expOf_mkSm {s : Bool} {m : ℕ} (h : m < 2 ^ 31) : (expOf (mkSm s (BitVec.ofNat 31 m))).toNat = m / 2 ^ 23 := by
  have hm := magOf_eq (mkSm s (BitVec.ofNat 31 m))
  rw [(fields_mkSm _ _).2, BitVec.toNat_ofNat, Nat.mod_eq_of_lt h] at hm
  have := (manOf (mkSm s (BitVec.ofNat 31 m))).isLt
  omega

/-! ## Magnitudes as numbers of units of 2^-149 -/

/-- The magnitude that the bits 30:0 of a word stand for, in units of 2^-149, denormals included. -/
def magUnits (m : ℕ) : ℕ := if m < 2 ^ 23 then m else (2 ^ 23 + m % 2 ^ 23) * 2 ^ (m / 2 ^ 23 - 1)

/-- The signed number of units of 2^-149. -/
def signedUnits (s : Bool) (u : ℕ) : ℚ := (if s then -1 else 1) * u / 2 ^ 149

/-- A significand times a power of two; 2^24 is the first significand of the next exponent. -/
theorem magUnits_normal {sh f : ℕ} (h1 : 2 ^ 23 ≤ f) (h2 : f ≤ 2 ^ 24) : magUnits (sh * 2 ^ 23 + f) = f * 2 ^ sh := by
  have hge : ¬sh * 2 ^ 23 + f < 2 ^ 23 := by omega
  rw [magUnits, if_neg hge]
  obtain h | rfl := h2.lt_or_eq
  · rw [show (sh * 2 ^ 23 + f) % 2 ^ 23 = f - 2 ^ 23 by omega,
      show (sh * 2 ^ 23 + f) / 2 ^ 23 - 1 = sh by omega, Nat.add_sub_cancel' h1]
  · rw [show (sh * 2 ^ 23 + 2 ^ 24) % 2 ^ 23 = 0 by omega,
      show (sh * 2 ^ 23 + 2 ^ 24) / 2 ^ 23 - 1 = sh + 1 by omega, pow_succ]
    ring

/-- A magnitude above the denormals is a significand times a power of two. -/
theorem exists_sig_of_le {m : ℕ} (h : 2 ^ 23 ≤ m) : ∃ sh f, m = sh * 2 ^ 23 + f ∧ 2 ^ 23 ≤ f ∧ f < 2 ^ 24 :=
  ⟨m / 2 ^ 23 - 1, 2 ^ 23 + m % 2 ^ 23, by omega, by omega, by omega⟩

/-- Words of one sign are ordered as their magnitudes. -/
theorem magUnits_strictMono : StrictMono magUnits := by
  refine strictMono_nat_of_lt_succ fun m => ?_
  obtain h | h := Nat.lt_or_ge m (2 ^ 23)
  · have h1 : magUnits m = m := if_pos h
    obtain h' | h' := Nat.lt_or_ge (m + 1) (2 ^ 23)
    · rw [h1, magUnits, if_pos h']; omega
    · have h2 : magUnits (0 * 2 ^ 23 + 2 ^ 23) = 2 ^ 23 * 2 ^ 0 := magUnits_normal le_rfl (by norm_num)
      rw [h1, show m + 1 = 0 * 2 ^ 23 + 2 ^ 23 by omega, h2]; omega
  · obtain ⟨sh, f, rfl, h1, h2⟩ := exists_sig_of_le h
    rw [Nat.add_assoc, magUnits_normal h1 h2.le, magUnits_normal (by omega) (by omega)]
    exact Nat.mul_lt_mul_of_pos_right (by omega) (by positivity)

/-- The real number of a word (R7). -/
theorem fpValue_eq_signedUnits (w : Word) : fpValue w = signedUnits (signOf w) (magUnits (magOf w).toNat) := by
  have hm := (manOf w).isLt
  have hv : fpValue w = (if signOf w then -1 else 1) *
      (if (expOf w).toNat = 0 then ((manOf w).toNat : ℚ) else 2 ^ 23 + (manOf w).toNat) *
      2 ^ max (expOf w).toNat 1 / 2 ^ 150 := rfl
  rw [hv, signedUnits, magOf_eq]
  generalize (if signOf w then (-1 : ℚ) else 1) = sign
  generalize (expOf w).toNat = e
  generalize (manOf w).toNat = m at hm ⊢
  cases e with
  | zero =>
    rw [if_pos rfl, show magUnits (0 * 2 ^ 23 + m) = m by rw [Nat.zero_mul, Nat.zero_add]; exact if_pos hm]
    norm_num
    ring
  | succ e =>
    rw [if_neg (Nat.succ_ne_zero e), show (e + 1) * 2 ^ 23 + m = e * 2 ^ 23 + (2 ^ 23 + m) by omega,
      magUnits_normal (by omega) (by omega), max_eq_left (by omega), pow_succ]
    push_cast
    ring

/-! ## The magnitude that `roundUnits` gives -/

/-- The magnitude nearest to `u` units, ties to even, before the test for overflow. -/
def roundedMag (u : ℕ) : ℕ :=
  (u.log2 - 23) * 2 ^ 23 + u >>> (u.log2 - 23) +
    if 2 * (u % 2 ^ (u.log2 - 23)) > 2 ^ (u.log2 - 23) ∨
      2 * (u % 2 ^ (u.log2 - 23)) = 2 ^ (u.log2 - 23) ∧ u >>> (u.log2 - 23) % 2 = 1 then 1 else 0

theorem roundUnits_of_lt {s : Bool} {u : ℕ} (h : u < 2 ^ 23) : roundUnits s u = signedZero s := by
  rw [roundUnits, if_pos h, mkFp_zero_eq_signedZero]

theorem roundUnits_of_le {s : Bool} {u : ℕ} (h : 2 ^ 23 ≤ u) : roundUnits s u =
    if roundedMag u < 0x7F800000 then mkSm s (BitVec.ofNat 31 (roundedMag u)) else infinity s := by
  have hr : roundUnits s u =
      mkSm s (if roundedMag u ≥ 0x7F800000 then 0x7F800000#31 else BitVec.ofNat 31 (roundedMag u)) :=
    if_neg (Nat.not_lt.2 h)
  rw [hr]
  split_ifs
  · omega
  · cases s <;> rfl
  · rfl
  · omega

/-- `roundedMag` chooses between the two magnitudes around `u` by the middle, and at the middle by parity. -/
theorem roundedMag_spec {u : ℕ} (h : 2 ^ 23 ≤ u) : ∃ m, 2 ^ 23 ≤ m ∧ magUnits m ≤ u ∧ u < magUnits (m + 1) ∧
    roundedMag u = if magUnits m + magUnits (m + 1) < 2 * u ∨ magUnits m + magUnits (m + 1) = 2 * u ∧ m % 2 = 1
      then m + 1 else m := by
  have hu : u ≠ 0 := by omega
  have h23 : 23 ≤ u.log2 := (Nat.le_log2 hu).2 h
  have hlow := Nat.log2_self_le hu
  have hhigh := Nat.lt_log2_self (n := u)
  rw [roundedMag, Nat.shiftRight_eq_div_pow]
  obtain ⟨sh, hsh⟩ := Nat.exists_eq_add_of_le' h23
  rw [hsh, pow_add, Nat.mul_comm] at hlow
  rw [hsh, Nat.add_assoc, pow_add, Nat.mul_comm] at hhigh
  rw [hsh, Nat.add_sub_cancel]
  have hpos : 0 < 2 ^ sh := by positivity
  have hq1 : 2 ^ 23 ≤ u / 2 ^ sh := (Nat.le_div_iff_mul_le hpos).2 hlow
  have hq2 : u / 2 ^ sh < 2 ^ 24 := (Nat.div_lt_iff_lt_mul hpos).2 hhigh
  have hdiv := Nat.div_add_mod' u (2 ^ sh)
  have hmod := Nat.mod_lt u hpos
  generalize u / 2 ^ sh = q at *
  generalize u % 2 ^ sh = r at *
  have hm := magUnits_normal (sh := sh) hq1 hq2.le
  have hm1 := magUnits_normal (sh := sh) (f := q + 1) (by omega) hq2
  rw [← Nat.add_assoc, Nat.add_mul, Nat.one_mul] at hm1
  refine ⟨sh * 2 ^ 23 + q, by omega, by omega, by omega, ?_⟩
  have hpar : (sh * 2 ^ 23 + q) % 2 = q % 2 := by omega
  rw [hm, hm1, hpar]
  have hc : (2 * r > 2 ^ sh ∨ 2 * r = 2 ^ sh ∧ q % 2 = 1) ↔
      (q * 2 ^ sh + (q * 2 ^ sh + 2 ^ sh) < 2 * u ∨ q * 2 ^ sh + (q * 2 ^ sh + 2 ^ sh) = 2 * u ∧ q % 2 = 1) := by
    omega
  rw [if_congr hc rfl rfl]
  split_ifs <;> omega

/-- Rounding keeps a number above the denormals above them. -/
theorem le_roundedMag {u : ℕ} (h : 2 ^ 23 ≤ u) : 2 ^ 23 ≤ roundedMag u := by
  obtain ⟨m, hm, -, -, hr⟩ := roundedMag_spec h
  rw [hr]; split_ifs <;> omega

/-- No magnitude is nearer than `roundedMag`, and a magnitude as near makes it even. -/
theorem roundedMag_nearest {u : ℕ} (h : 2 ^ 23 ≤ u) (k : ℕ) :
    |(magUnits (roundedMag u) : ℤ) - u| ≤ |(magUnits k : ℤ) - u| ∧
      (k ≠ roundedMag u → |(magUnits k : ℤ) - u| = |(magUnits (roundedMag u) : ℤ) - u| → roundedMag u % 2 = 0) := by
  obtain ⟨m, -, hlow, hhigh, hr⟩ := roundedMag_spec h
  have hbelow : |(magUnits m : ℤ) - u| = u - magUnits m := by rw [abs_of_nonpos (by omega)]; omega
  have habove : |(magUnits (m + 1) : ℤ) - u| = magUnits (m + 1) - u := abs_of_nonneg (by omega)
  obtain hk | rfl | rfl | hk : k < m ∨ k = m ∨ k = m + 1 ∨ m + 1 < k := by omega
  · have := magUnits_strictMono hk
    have hk' : |(magUnits k : ℤ) - u| = u - magUnits k := by rw [abs_of_nonpos (by omega)]; omega
    rw [hr, hk']; split_ifs <;> omega
  · rw [hr, hbelow]; split_ifs <;> omega
  · rw [hr, habove]; split_ifs <;> omega
  · have := magUnits_strictMono hk
    have hk' : |(magUnits k : ℤ) - u| = magUnits k - u := abs_of_nonneg (by omega)
    rw [hr, hk']; split_ifs <;> omega

/-- The units of the first magnitude beyond the finite ones, and of the largest finite one. -/
theorem magUnits_top : magUnits 0x7F800000 = 2 ^ 25 * 2 ^ 252 ∧ magUnits 0x7F7FFFFF = (2 ^ 25 - 2) * 2 ^ 252 := by
  have htop := magUnits_normal (sh := 253) (f := 2 ^ 24) (by norm_num) le_rfl
  have hmax := magUnits_normal (sh := 253) (f := 2 ^ 24 - 1) (by norm_num) (by norm_num)
  rw [pow_succ] at htop hmax
  exact ⟨htop.trans (by ring), hmax.trans (by ring)⟩

/-- Rounding overflows exactly from the middle between the two upwards (R110). -/
theorem roundedMag_lt_iff {u : ℕ} (h : 2 ^ 23 ≤ u) : roundedMag u < 0x7F800000 ↔ u < (2 ^ 25 - 1) * 2 ^ 252 := by
  obtain ⟨m, -, hlow, hhigh, hr⟩ := roundedMag_spec h
  obtain ⟨htop, hmax⟩ := magUnits_top
  rw [hr]
  generalize 2 ^ 252 = t at htop hmax ⊢
  obtain hm | rfl | hm : m < 0x7F7FFFFF ∨ m = 0x7F7FFFFF ∨ 0x7F800000 ≤ m := by omega
  · have : magUnits (m + 1) ≤ magUnits 0x7F7FFFFF := magUnits_strictMono.monotone (by omega)
    rw [hmax] at this
    refine iff_of_true (by split_ifs <;> omega) (by omega)
  · rw [hmax] at hlow ⊢
    rw [htop] at hhigh ⊢
    split_ifs <;> omega
  · have : magUnits 0x7F800000 ≤ magUnits m := magUnits_strictMono.monotone hm
    rw [htop] at this
    refine iff_of_false (by split_ifs <;> omega) (by omega)

end Sys2Proof.Machine

/-! # FMA (`41_mad.md` R110): special operands, exact products, and what never comes out -/

namespace Sys2Proof.Machine

/-! ## Rounding a number of units of 2^-149 -/

/-- The word of a sign and a magnitude below those of the infinities is finite. -/
theorem finite_mkSm {s : Bool} {m : ℕ} (h : m < 0x7F800000) : Finite (mkSm s (BitVec.ofNat 31 m)) := by
  intro he
  have := expOf_mkSm (s := s) (m := m) (by omega)
  rw [show expOf (mkSm s (BitVec.ofNat 31 m)) = 255#8 from he, show (255#8).toNat = 255 from rfl] at this
  omega

theorem fpValue_mkSm {s : Bool} {m : ℕ} (h : m < 2 ^ 31) :
    fpValue (mkSm s (BitVec.ofNat 31 m)) = signedUnits s (magUnits m) := by
  obtain ⟨hs, hm⟩ := fields_mkSm s (BitVec.ofNat 31 m)
  rw [fpValue_eq_signedUnits, hs, hm, BitVec.toNat_ofNat, Nat.mod_eq_of_lt h]

/-- The last bit is that of the magnitude. -/
theorem getLsbD_zero_mkSm (s : Bool) (m : ℕ) :
    (mkSm s (BitVec.ofNat 31 m)).getLsbD 0 = decide (m % 2 = 1) := by
  rw [mkSm, BitVec.getLsbD_append, if_pos (by norm_num), BitVec.getLsbD_ofNat, Nat.testBit_zero]
  rfl

/-- The distance of two numbers of one sign. -/
theorem dist_signedUnits_same (s : Bool) (a b : ℕ) :
    |signedUnits s a - signedUnits s b| = ((|(a : ℤ) - b| : ℤ) : ℚ) / 2 ^ 149 := by
  have h : |signedUnits s a - signedUnits s b| = |((a : ℚ) - b) / 2 ^ 149| := by
    cases s
    · simp only [signedUnits, Bool.false_eq_true, if_false]; congr 1; ring
    · rw [← abs_neg ((_ - _) / _)]; simp only [signedUnits, if_true]; congr 1; ring
  rw [h, abs_div, abs_of_pos (by positivity : (0 : ℚ) < 2 ^ 149)]
  push_cast
  rfl

/-- The distance of two numbers of opposite signs. -/
theorem dist_signedUnits_ne {s s' : Bool} (h : s' ≠ s) (a b : ℕ) :
    |signedUnits s' a - signedUnits s b| = (((a : ℤ) + b : ℤ) : ℚ) / 2 ^ 149 := by
  have hc : |signedUnits s' a - signedUnits s b| = |((a : ℚ) + b) / 2 ^ 149| := by
    obtain rfl : s' = !s := by revert s s'; decide
    cases s
    · rw [← abs_neg ((_ + _) / _)]
      simp only [signedUnits, Bool.not_false, Bool.false_eq_true, if_true, if_false]; congr 1; ring
    · simp only [signedUnits, Bool.not_true, Bool.false_eq_true, if_true, if_false]; congr 1; ring
  rw [hc, abs_of_nonneg (by positivity)]
  push_cast
  rfl

/-- Between the flush and the overflow, rounding gives the nearest FP32 number, ties to even (R110). -/
theorem nearest_roundUnits (s : Bool) {u : ℕ} (h1 : 2 ^ 23 ≤ u) (h2 : u < (2 ^ 25 - 1) * 2 ^ 252) :
    Nearest (signedUnits s u) (roundUnits s u) := by
  have hm := (roundedMag_lt_iff h1).2 h2
  have hnear := roundedMag_nearest h1
  have hpos := le_roundedMag h1
  rw [roundUnits_of_le h1, if_pos hm]
  generalize roundedMag u = m at *
  have hval : fpValue (mkSm s (BitVec.ofNat 31 m)) = signedUnits s (magUnits m) := fpValue_mkSm (by omega)
  have h149 : (0 : ℚ) < 2 ^ 149 := by positivity
  have hzero : |(magUnits m : ℤ) - u| ≤ u := by
    have := (hnear 0).1
    rwa [show magUnits 0 = 0 from rfl, Nat.cast_zero, zero_sub, abs_neg, Nat.abs_cast] at this
  refine ⟨finite_mkSm hm, fun w _ => ?_, fun w _ hne htie => ?_⟩
  · rw [hval, fpValue_eq_signedUnits w, dist_signedUnits_same]
    by_cases hs : signOf w = s
    · rw [hs, dist_signedUnits_same, div_le_div_iff_of_pos_right h149, Int.cast_le]
      exact (hnear _).1
    · rw [dist_signedUnits_ne hs, div_le_div_iff_of_pos_right h149, Int.cast_le]
      omega
  · rw [hval, fpValue_eq_signedUnits w, dist_signedUnits_same] at htie
    rw [getLsbD_zero_mkSm, decide_eq_false_iff_not, Nat.mod_two_not_eq_one]
    by_cases hs : signOf w = s
    · rw [hs, dist_signedUnits_same, div_left_inj' h149.ne', Int.cast_inj] at htie
      refine (hnear _).2 (fun hmag => hne ?_) htie
      rw [← mkSm_signOf_magOf w, hs, ← hmag, BitVec.ofNat_toNat, BitVec.setWidth_eq]
    · rw [dist_signedUnits_ne hs, div_left_inj' h149.ne', Int.cast_inj] at htie
      refine (hnear 0).2 (by omega) ?_
      rw [show magUnits 0 = 0 from rfl, Nat.cast_zero, zero_sub, abs_neg, Nat.abs_cast]
      omega

/-- From the middle between the largest finite number and the next one upwards, rounding gives infinity (R110). -/
theorem roundUnits_of_overflow {s : Bool} {u : ℕ} (h : ¬u < (2 ^ 25 - 1) * 2 ^ 252) : roundUnits s u = infinity s := by
  have h23 : 2 ^ 23 ≤ u := by
    have : 2 ^ 23 ≤ (2 ^ 25 - 1) * 2 ^ 252 := by norm_num
    omega
  rw [roundUnits_of_le h23, if_neg (mt (roundedMag_lt_iff h23).1 h)]

/-- The smallest normal number in units of 2^-149. -/
theorem units_lt_flush_iff (n : ℕ) : (n : ℚ) / 2 ^ 149 < 1 / 2 ^ 126 ↔ n < 2 ^ 23 := by
  rw [show (1 : ℚ) / 2 ^ 126 = ((2 ^ 23 : ℕ) : ℚ) / 2 ^ 149 by norm_num, div_lt_div_iff_of_pos_right (by positivity),
    Nat.cast_lt]

/-- The least number that rounds to infinity in units of 2^-149. -/
theorem units_lt_overflow_iff (n : ℕ) : (n : ℚ) / 2 ^ 149 < 2 ^ 128 - 2 ^ 103 ↔ n < (2 ^ 25 - 1) * 2 ^ 252 := by
  rw [show (2 : ℚ) ^ 128 - 2 ^ 103 = (((2 ^ 25 - 1) * 2 ^ 252 : ℕ) : ℚ) / 2 ^ 149 by norm_num,
    div_lt_div_iff_of_pos_right (by positivity), Nat.cast_lt]

/-! ## The exact sum -/

theorem signedUnits_eq_zero {s : Bool} {u : ℕ} : signedUnits s u = 0 ↔ u = 0 := by
  cases s <;> simp [signedUnits]

theorem abs_signedUnits (s : Bool) (u : ℕ) : |signedUnits s u| = (u : ℚ) / 2 ^ 149 := by
  cases s <;> simp [signedUnits, abs_div, abs_of_pos]

theorem signedUnits_neg_iff {s : Bool} {u : ℕ} (h : u ≠ 0) : signedUnits s u < 0 ↔ s = true := by
  have hu : (0 : ℚ) < u / 2 ^ 149 := by positivity
  cases s
  · simp only [signedUnits, Bool.false_eq_true, if_false, one_mul, iff_false, not_lt]; exact hu.le
  · simp only [signedUnits, if_true, neg_mul, one_mul, neg_div, iff_true]; linarith

theorem signedUnits_add (s : Bool) (a b : ℕ) : signedUnits s a + signedUnits s b = signedUnits s (a + b) := by
  simp only [signedUnits]; push_cast; ring

/-- The larger of two magnitudes of opposite signs gives its sign to the sum. -/
theorem signedUnits_add_of_ne {s s' : Bool} (hs : s ≠ s') {a b : ℕ} (h : b ≤ a) :
    signedUnits s a + signedUnits s' b = signedUnits s (a - b) := by
  obtain rfl : s' = !s := by revert s s'; decide
  obtain ⟨d, rfl⟩ := Nat.exists_eq_add_of_le h
  rw [Nat.add_sub_cancel_left]
  cases s <;> simp [signedUnits] <;> ring

/-- `addUnits` rounds the sum of the two signed magnitudes; a zero is negative only if both terms are (R110). -/
theorem addUnits_eq_roundUnits (sp : Bool) (p : ℕ) (sc : Bool) (c : ℕ) : ∃ s u,
    addUnits sp p sc c = roundUnits s u ∧ signedUnits sp p + signedUnits sc c = signedUnits s u ∧
      (u = 0 → s = (decide (p = 0) && sp && sc)) := by
  unfold addUnits
  split_ifs with hs hpc hlt
  · subst hs
    exact ⟨sp, p + c, rfl, signedUnits_add sp p c, fun h => by simp [show p = 0 by omega]⟩
  · subst hpc
    refine ⟨false, 0, rfl, ?_, fun _ => ?_⟩
    · rw [signedUnits_add_of_ne hs le_rfl, Nat.sub_self, signedUnits_eq_zero.2 rfl, signedUnits_eq_zero.2 rfl]
    · revert hs; cases sp <;> cases sc <;> simp
  · exact ⟨sp, p - c, rfl, signedUnits_add_of_ne hs hlt.le, fun h => by omega⟩
  · refine ⟨sc, c - p, rfl, ?_, fun h => by omega⟩
    rw [add_comm, signedUnits_add_of_ne (Ne.symm hs) (Nat.le_of_not_lt hlt)]

/-! ## The exact product -/

/-- Two significands that make an FP32 significand: the scales are those of their leading bits. -/
theorem exact_significand {f n i j : ℕ} (h1 : 2 ^ 23 ≤ f) (h2 : f < 2 ^ 24) (hn : n ≠ 0) (h : f * 2 ^ i = n * 2 ^ j) :
    n.log2 + j = 23 + i ∧ (23 ≤ n.log2 → n = f * 2 ^ (n.log2 - 23)) := by
  have hlog : n.log2 + j = 23 + i := by
    have hlow := Nat.mul_le_mul_right (2 ^ i) h1
    have hhigh := Nat.mul_lt_mul_of_pos_right h2 (show 0 < 2 ^ i by positivity)
    have hlow' := Nat.mul_le_mul_right (2 ^ j) (Nat.log2_self_le hn)
    have hhigh' := Nat.mul_lt_mul_of_pos_right (Nat.lt_log2_self (n := n)) (show 0 < 2 ^ j by positivity)
    rw [← pow_add] at hlow hhigh hlow' hhigh'
    have hl := (Nat.pow_lt_pow_iff_right (a := 2) (by norm_num)).1 (hlow'.trans_lt (h ▸ hhigh))
    have hr := (Nat.pow_lt_pow_iff_right (a := 2) (by norm_num)).1 (hlow.trans_lt (h ▸ hhigh'))
    omega
  refine ⟨hlog, fun h23 => Nat.eq_of_mul_eq_mul_right (show 0 < 2 ^ j by positivity) ?_⟩
  rw [← h, Nat.mul_assoc, ← pow_add]
  congr 2
  omega

theorem sig_bounds (w : Word) : 2 ^ 23 ≤ sig w ∧ sig w < 2 ^ 24 := by
  have := (manOf w).isLt
  simp only [sig]
  omega

theorem expOf_pos {w : Word} (h : expOf w ≠ 0#8) : 1 ≤ (expOf w).toNat :=
  Nat.pos_of_ne_zero fun h0 => h (BitVec.eq_of_toNat_eq h0)

theorem units_of_exp_zero {w : Word} (h : expOf w = 0#8) : units w = 0 := if_pos h

/-- The units of a normal number. -/
theorem units_of_exp_ne_zero {w : Word} (h : expOf w ≠ 0#8) : units w = sig w * 2 ^ ((expOf w).toNat - 1) := by
  rw [units, if_neg h, Nat.shiftLeft_eq]

/-- The real number of a word that is no denormal, in the units of the model. -/
theorem fpValue_eq_units {w : Word} (h : expOf w = 0#8 → manOf w = 0#23) :
    fpValue w = signedUnits (signOf w) (units w) := by
  rw [fpValue_eq_signedUnits, magOf_eq]
  congr 1
  by_cases he : expOf w = 0#8
  · rw [units_of_exp_zero he, he, h he]; simp [magUnits]
  · obtain ⟨h1, h2⟩ := sig_bounds w
    have h0 := expOf_pos he
    have hmag : (expOf w).toNat * 2 ^ 23 + (manOf w).toNat = ((expOf w).toNat - 1) * 2 ^ 23 + sig w := by
      rw [sig]; omega
    rw [units_of_exp_ne_zero he, hmag, magUnits_normal h1 h2.le]

theorem signedUnits_mul (s s' : Bool) (a b : ℕ) :
    signedUnits s a * signedUnits s' b = signedUnits (s ^^ s') (a * b) / 2 ^ 149 := by
  cases s <;> cases s' <;> simp [signedUnits] <;> ring

/-- Where the units of two normal numbers multiply to those of a third, `exactProduct` finds it (R110 L5). -/
theorem exactProduct_of_units {a b w : Word} (ha : expOf a ≠ 0#8) (hb : expOf b ≠ 0#8) (hw : expOf w ≠ 0#8)
    (hfin : Finite w) (h : units w * 2 ^ 149 = units a * units b) : exactProduct a b = some (units w) := by
  obtain ⟨ha1, ha2⟩ := sig_bounds a
  obtain ⟨hb1, hb2⟩ := sig_bounds b
  obtain ⟨hw1, hw2⟩ := sig_bounds w
  have hn : 2 ^ 46 ≤ sig a * sig b := (Nat.mul_le_mul ha1 hb1).trans_eq' (by norm_num)
  have hn0 : sig a * sig b ≠ 0 := by omega
  have hk : 46 ≤ (sig a * sig b).log2 := (Nat.le_log2 hn0).2 hn
  have ea := expOf_pos ha
  have eb := expOf_pos hb
  have ew := expOf_pos hw
  have ew' : (expOf w).toNat < 255 := lt_of_le_of_ne (Nat.le_of_lt_succ (expOf w).isLt)
    fun h => hfin (BitVec.eq_of_toNat_eq h)
  have hscale : sig w * 2 ^ ((expOf w).toNat - 1 + 149) =
      sig a * sig b * 2 ^ ((expOf a).toNat - 1 + ((expOf b).toNat - 1)) := by
    rw [units_of_exp_ne_zero ha, units_of_exp_ne_zero hb, units_of_exp_ne_zero hw] at h
    rw [pow_add, pow_add, ← Nat.mul_assoc, h]
    ring
  obtain ⟨hlog, hcut⟩ := exact_significand hw1 hw2 hn0 hscale
  have hcut := hcut (by omega)
  rw [exactProduct, if_neg (not_or.2 ⟨ha, hb⟩), units_of_exp_ne_zero hw]
  simp only [Nat.shiftRight_eq_div_pow, Nat.shiftLeft_eq]
  generalize (sig a * sig b).log2 = k at *
  have hexp : k + (expOf a).toNat + (expOf b).toNat - 174 = (expOf w).toNat - 1 := by omega
  rw [hcut, Nat.mul_mod_left, Nat.mul_div_cancel _ (by positivity), if_pos ⟨rfl, by omega, by omega⟩, hexp]

/-- The product of two numbers that are no denormals, where it is zero or a normal number (R110 L5). -/
theorem exactProduct_of_exact {a b : Word} (ha : expOf a = 0#8 → manOf a = 0#23) (hb : expOf b = 0#8 → manOf b = 0#23)
    (h : fpValue a * fpValue b = 0 ∨
      ∃ w : Word, Finite w ∧ w.extractLsb' 23 8 ≠ 0#8 ∧ fpValue w = fpValue a * fpValue b) :
    ∃ u, exactProduct a b = some u ∧ fpValue a * fpValue b = signedUnits (signOf a ^^ signOf b) u := by
  have hp : fpValue a * fpValue b = signedUnits (signOf a ^^ signOf b) (units a * units b) / 2 ^ 149 := by
    rw [fpValue_eq_units ha, fpValue_eq_units hb, signedUnits_mul]
  by_cases hz : expOf a = 0#8 ∨ expOf b = 0#8
  · have hu : units a * units b = 0 := Nat.mul_eq_zero.2 (hz.imp units_of_exp_zero units_of_exp_zero)
    refine ⟨0, if_pos hz, ?_⟩
    rw [hp, hu, signedUnits_eq_zero.2 rfl, zero_div]
  · obtain ⟨hza, hzb⟩ := not_or.1 hz
    have h0 : fpValue a * fpValue b ≠ 0 := by
      have hu : units a * units b ≠ 0 := by
        rw [units_of_exp_ne_zero hza, units_of_exp_ne_zero hzb]
        have := (sig_bounds a).1
        have := (sig_bounds b).1
        positivity
      rw [hp]
      exact div_ne_zero (mt signedUnits_eq_zero.1 hu) (by positivity)
    obtain ⟨w, hfin, hnorm, hw⟩ := h.resolve_left h0
    have habs : |fpValue w| = |fpValue a * fpValue b| := by rw [hw]
    rw [hp, fpValue_eq_units fun he => absurd he hnorm, abs_div, abs_signedUnits, abs_signedUnits,
      abs_of_pos (by positivity : (0 : ℚ) < 2 ^ 149), div_left_inj' (by positivity), eq_div_iff (by positivity)] at habs
    have hnat : units w * 2 ^ 149 = units a * units b := by exact_mod_cast habs
    refine ⟨units w, exactProduct_of_units hza hzb hnorm hfin hnat, ?_⟩
    rw [hp, ← hnat]
    simp only [signedUnits]
    push_cast
    ring

/-! ## Flushed operands (L1) -/

theorem flush_of_exp_zero {w : Word} (h : expOf w = 0#8) : flush w = mkFp (signOf w) 0 0 := if_pos h

theorem flush_of_exp_ne_zero {w : Word} (h : expOf w ≠ 0#8) : flush w = w := if_neg h

@[simp] theorem signOf_flush (w : Word) : signOf (flush w) = signOf w := by
  unfold flush; split
  · exact (fields_mkFp _ _ _).1
  · rfl

@[simp] theorem expOf_flush (w : Word) : expOf (flush w) = expOf w := by
  unfold flush; split
  · next h => rw [(fields_mkFp _ _ _).2.1, h]; rfl
  · rfl

/-- A flushed word is no denormal. -/
theorem manOf_flush_of_exp_zero {w : Word} (h : expOf (flush w) = 0#8) : manOf (flush w) = 0#23 := by
  rw [expOf_flush] at h
  rw [flush_of_exp_zero h]
  exact (fields_mkFp _ _ _).2.2

theorem isNan_iff {w : Word} : isNan w = true ↔ Nan w := by
  rw [isNan, Bool.and_eq_true, decide_eq_true_iff, decide_eq_true_iff]; rfl

theorem isInf_iff {w : Word} : isInf w = true ↔ Infinite w := by
  rw [isInf, Bool.and_eq_true, decide_eq_true_iff, decide_eq_true_iff]; rfl

@[simp] theorem isNan_flush (w : Word) : isNan (flush w) = isNan w := by
  by_cases h : expOf w = 0#8
  · simp [isNan, h]
  · rw [flush_of_exp_ne_zero h]

@[simp] theorem isInf_flush (w : Word) : isInf (flush w) = isInf w := by
  by_cases h : expOf w = 0#8
  · simp [isInf, h]
  · rw [flush_of_exp_ne_zero h]

theorem flush_flush (w : Word) : flush (flush w) = flush w := by
  by_cases h : expOf w = 0#8
  · rw [flush_of_exp_zero ((expOf_flush w).trans h), signOf_flush, flush_of_exp_zero h]
  · rw [flush_of_exp_ne_zero h, flush_of_exp_ne_zero h]

/-- A finite word is neither a NaN nor an infinity. -/
theorem Finite.isNan_isInf {w : Word} (h : Finite w) : isNan w = false ∧ isInf w = false := by
  have : expOf w ≠ 255#8 := h
  simp [isNan, isInf, this]

/-! ## FMA case by case (L2 to L6) -/

section Cases

variable {a b c : Word}

theorem fma_flush (a b c : Word) : fma a b c = fma (flush a) (flush b) (flush c) := by
  simp only [fma, flush_flush]

/-- A NaN operand (L2). -/
theorem fma_of_nan (h : (isNan a || isNan b || isNan c) = true) : fma a b c = canonicalNan := by
  simp only [fma, fmaFlushed, isNan_flush, h, if_true]

/-- An infinite factor (L3, L4). -/
theorem fma_of_infinite_factor (hn : (isNan a || isNan b || isNan c) = false) (h : (isInf a || isInf b) = true) :
    fma a b c = if expOf a = 0#8 ∨ expOf b = 0#8 ∨ isInf c = true ∧ signOf c ≠ (signOf a ^^ signOf b) then canonicalNan
      else inf (signOf a ^^ signOf b) := by
  simp only [fma, fmaFlushed, isNan_flush, isInf_flush, expOf_flush, signOf_flush, hn, h, if_true, Bool.false_eq_true,
    if_false]

/-- Finite factors and an infinite addend (L4). -/
theorem fma_of_infinite_addend (ha : Finite a) (hb : Finite b) (h : Infinite c) : fma a b c = c := by
  obtain ⟨hna, hia⟩ := ha.isNan_isInf
  obtain ⟨hnb, hib⟩ := hb.isNan_isInf
  have hic : isInf c = true := isInf_iff.2 h
  have hnc : isNan c = false := by simp [isNan, show manOf c = 0#23 from h.2]
  have hc : expOf c ≠ 0#8 := by rw [show expOf c = 255#8 from h.1]; decide
  simp [fma, fmaFlushed, flush_of_exp_ne_zero hc, *]

/-- Finite operands with an exact product (L5). -/
theorem fma_of_exactProduct (ha : Finite a) (hb : Finite b) (hc : Finite c) {p : ℕ}
    (hp : exactProduct (flush a) (flush b) = some p) :
    fma a b c = addUnits (signOf a ^^ signOf b) p (signOf c) (units (flush c)) := by
  obtain ⟨hna, hia⟩ := ha.isNan_isInf
  obtain ⟨hnb, hib⟩ := hb.isNan_isInf
  obtain ⟨hnc, hic⟩ := hc.isNan_isInf
  simp [fma, fmaFlushed, *]

end Cases

/-- A flushed word is a zero exactly if its exponent is 0. -/
theorem flushed_isZero_iff (w : Word) : flushed w &&& 0x7FFFFFFF#32 = 0#32 ↔ expOf w = 0#8 := by
  have hmag : flushed w &&& 0x7FFFFFFF#32 = 0#32 ↔ (magOf (flush w)).toNat = 0 := by
    rw [← flush_eq_flushed, and_mag, ← BitVec.toNat_inj, toNat_append_add]
    simp
  rw [hmag, magOf_eq, expOf_flush]
  constructor
  · intro h; exact BitVec.eq_of_toNat_eq (by simp; omega)
  · intro h
    rw [manOf_flush_of_exp_zero ((expOf_flush w).trans h), h]; rfl

/-- Settles O27: L1 to L4 are the first three tests of `fmaFlushed`, in their order. -/
theorem fmaSpecialOperands : Obligations.FmaSpecialOperands := by
  intro a b c
  refine ⟨?_, ?_, ?_, ?_, fma_of_infinite_addend⟩
  · rw [← flush_eq_flushed, ← flush_eq_flushed, ← flush_eq_flushed]; exact fma_flush a b c
  · intro h
    refine fma_of_nan ?_
    simpa only [← isNan_iff, ← Bool.or_eq_true, ← Bool.or_assoc] using h
  · intro h
    simp only [flushed_isZero_iff, ← isInf_iff] at h
    by_cases hn : (isNan a || isNan b || isNan c) = true
    · exact fma_of_nan hn
    · have hi : (isInf a || isInf b) = true := Bool.or_eq_true_iff.2 (h.imp And.left And.right)
      rw [fma_of_infinite_factor (Bool.eq_false_of_not_eq_true hn) hi]
      exact if_pos (h.elim (fun h => .inr (.inl h.2)) fun h => .inl h.1)
  · intro hna hnb hnc hi hza hzb
    rw [Ne, flushed_isZero_iff] at hza hzb
    simp only [← isNan_iff, Bool.not_eq_true] at hna hnb hnc
    simp only [← isInf_iff, ← Bool.or_eq_true] at hi
    rw [fma_of_infinite_factor (by simp [hna, hnb, hnc]) hi]
    refine ⟨fun hc => if_pos (.inr (.inr (hc.imp_left isInf_iff.2))), fun hc => ?_⟩
    rw [if_neg (by rintro (h | h | h); exacts [hza h, hzb h, hc (h.imp_left isInf_iff.1)]), inf_eq_infinity]
    rfl

/-- Settles O28: the sum is that of two numbers of units of 2^-149, which `roundUnits` rounds. -/
theorem fmaRoundsExactProducts : Obligations.FmaRoundsExactProducts := by
  intro a b c ha hb hc p x sp hp
  obtain ⟨u, hexact, hval⟩ := exactProduct_of_exact (a := flush a) (b := flush b) manOf_flush_of_exp_zero
    manOf_flush_of_exp_zero (by rw [flush_eq_flushed, flush_eq_flushed]; exact hp)
  obtain ⟨s, n, hadd, hsum, hsign⟩ :=
    addUnits_eq_roundUnits (signOf a ^^ signOf b) u (signOf c) (units (flush c))
  rw [signOf_flush, signOf_flush] at hval
  have hpu : p = signedUnits (signOf a ^^ signOf b) u := by
    rw [← hval, flush_eq_flushed, flush_eq_flushed]
  have hx : x = signedUnits s n := by
    rw [← hsum, ← hpu, ← signOf_flush c, ← fpValue_eq_units manOf_flush_of_exp_zero, flush_eq_flushed]
  have hfma : fma a b c = roundUnits s n := (fma_of_exactProduct ha hb hc hexact).trans hadd
  have hp0 : p = 0 ↔ u = 0 := by rw [hpu, signedUnits_eq_zero]
  have hneg (hn : n ≠ 0) : decide (x < 0) = s := by simp [hx, signedUnits_neg_iff hn]
  have habs : |x| = (n : ℚ) / 2 ^ 149 := by rw [hx, abs_signedUnits]
  clear_value p x
  rw [hfma, habs]
  refine ⟨fun h0 => ?_, fun h0 hlt => ?_, fun hle hlt => ?_, fun hle => ?_⟩
  · have hn : n = 0 := signedUnits_eq_zero.1 (hx.symm.trans h0)
    rw [hn, roundUnits_of_lt (by norm_num), hsign hn]
    simp only [hp0]; rfl
  · have hn : n < 2 ^ 23 := (units_lt_flush_iff n).1 hlt
    rw [roundUnits_of_lt hn, hneg (by rintro rfl; exact h0 (hx.trans (signedUnits_eq_zero.2 rfl)))]
  · rw [hx]
    exact nearest_roundUnits s (Nat.not_lt.1 (mt (units_lt_flush_iff n).2 (not_lt.2 hle)))
      ((units_lt_overflow_iff n).1 hlt)
  · have hbig : ¬n < (2 ^ 25 - 1) * 2 ^ 252 := mt (units_lt_overflow_iff n).2 (not_lt.2 hle)
    rw [roundUnits_of_overflow hbig, hneg (by rintro rfl; exact hbig (by norm_num))]

/-! ## What never comes out (L6 and the preamble of R110) -/

/-- No denormal, and no NaN but the canonical one. -/
def Tidy (w : Word) : Prop := (expOf w = 0#8 → manOf w = 0#23) ∧ (Nan w → w = canonicalNan)

theorem tidy_of_normal {w : Word} (h0 : expOf w ≠ 0#8) (h255 : expOf w ≠ 255#8) : Tidy w :=
  ⟨fun h => absurd h h0, fun h => absurd h.1 h255⟩

theorem tidy_canonicalNan : Tidy canonicalNan := ⟨fun h => absurd h (by decide), fun _ => rfl⟩

theorem tidy_inf (s : Bool) : Tidy (inf s) := by
  obtain ⟨-, he, hm⟩ := fields_mkFp s 255#8 0
  exact ⟨fun _ => hm, fun h => absurd hm h.2⟩

theorem tidy_flush {w : Word} (h : isNan w = false) : Tidy (flush w) := by
  refine ⟨manOf_flush_of_exp_zero, fun hn => ?_⟩
  rw [← isNan_iff, isNan_flush, h] at hn
  cases hn

theorem tidy_tidy (w : Word) : Tidy (tidy w) := by
  unfold tidy
  split
  · exact tidy_canonicalNan
  · next h => exact tidy_flush (Bool.eq_false_of_not_eq_true h)

/-- Rounding gives a zero, a normal number or an infinity. -/
theorem tidy_roundUnits (s : Bool) (u : ℕ) : Tidy (roundUnits s u) := by
  obtain h | h := Nat.lt_or_ge u (2 ^ 23)
  · rw [roundUnits_of_lt h, ← mkFp_zero_eq_signedZero]
    exact ⟨fun _ => (fields_mkFp s 0 0).2.2, fun hn => absurd (fields_mkFp s 0 0).2.2 hn.2⟩
  · rw [roundUnits_of_le h]
    split
    · next hm =>
      have hexp := expOf_mkSm (s := s) (m := roundedMag u) (by omega)
      have hlow := le_roundedMag h
      refine tidy_of_normal (fun he => ?_) (finite_mkSm hm)
      rw [he, show (0#8).toNat = 0 from rfl] at hexp
      omega
    · rw [← inf_eq_infinity]; exact tidy_inf s

/-- Whatever the operands, and whatever the free function gives under L6. -/
theorem tidy_fma (a b c : Word) : Tidy (fma a b c) := by
  unfold fma fmaFlushed
  extract_lets sp
  split_ifs with hn hi hinv hic
  · exact tidy_canonicalNan
  · exact tidy_canonicalNan
  · exact tidy_inf sp
  · refine tidy_flush ?_
    simp only [Bool.or_eq_true, not_or, isNan_flush, Bool.not_eq_true] at hn
    exact hn.2
  · split
    · obtain ⟨s, u, hu, -⟩ := addUnits_eq_roundUnits sp ‹ℕ› (signOf (flush c)) (units (flush c))
      rw [hu]
      exact tidy_roundUnits s u
    · exact tidy_tidy _

/-- Settles O29: no branch of `fmaFlushed` gives one. -/
theorem fmaNeverGivesDenormalOrStrayNan : Obligations.FmaNeverGivesDenormalOrStrayNan := tidy_fma

end Sys2Proof.Machine

/-! # The multiply-add instructions (`41_mad.md` R111 to R119) -/

namespace Sys2Proof.Machine

/-! ## What the instructions share -/

/-- Flipping bit 31 is flipping the sign (R111). -/
theorem negIf_eq_signFlip (b : Bool) (w : Word) : negIf b w = signFlip b w := by
  unfold negIf signFlip
  split
  · refine BitVec.eq_of_getLsbD_eq fun i hi => ?_
    rw [BitVec.getLsbD_xor, BitVec.getLsbD_cons]
    obtain rfl | h : i = 31 ∨ i < 31 := by omega
    · simp
    · have h0 : (0x80000000#32).getLsbD i = false := by
        rw [show 0x80000000#32 = BitVec.twoPow 32 31 from rfl, BitVec.getLsbD_twoPow]; simp; omega
      simp [h0, h, h.ne]
  · rfl

/-- The model's destination is that of R111. -/
theorem madDst_eq_indirectReg (s : State) (b : Bool) (r : Reg) : madDst s b r = indirectReg s b r := rfl

/-- The pending set of a producer, register by register (R263). -/
theorem pendingDst_eq_pendingAfter (all : Bool) (vd : Reg) : pendingDst all vd = pendingAfter all vd := by
  revert all vd; decide

/-- An instruction of the MAD sub-unit: it writes its direct or indirect destination and leaves it pending. -/
theorem madResult_of_lanewiseTo {i : Instr} {s : State} {indirect : Bool} {vd : Reg} {val val' : LaneIx → Word}
    (he : exec i s = lanewiseTo i [] s (madDst s indirect vd) val (pendingDst indirect vd))
    (hf : formError i = none) (hv : ∀ l, val' l = val l) :
    LaneResult i s [] (indirectReg s indirect vd) val' (pendingAfter indirect vd) :=
  laneResult_of_lanewiseTo he hf (madDst_eq_indirectReg s indirect vd).symm hv
    (pendingDst_eq_pendingAfter indirect vd).symm

/-! ## SFPMAD, SFPADD, SFPMUL, SFPADDI, SFPMULI -/

theorem madValue_eq_madResult (s : State) (va vb vc : Reg) (mod1 : Mode) (l : LaneIx) :
    madValue s va vb vc mod1 l = madResult s va vb vc mod1 l := by
  rw [madValue, madResult, negIf_eq_signFlip, negIf_eq_signFlip]; rfl

/-- Settles O30: the three mnemonics have one meaning. -/
theorem madAddMulComputeTheSame : Obligations.MadAddMulComputeTheSame := by
  intro va vb vc vd mod1 s i hi
  have hv (l : LaneIx) := (madValue_eq_madResult s va vb vc mod1 l).symm
  rcases hi with rfl | rfl | rfl
  · exact madResult_of_lanewiseTo rfl rfl hv
  · exact madResult_of_lanewiseTo rfl rfl hv
  · exact madResult_of_lanewiseTo rfl rfl hv

theorem formError_sfpaddi {imm16 : BitVec 16} {vd : Reg} {mod1 : Mode} :
    formError (.sfpaddi imm16 vd mod1) = none ↔ mod1 ∈ [0#4, 2#4, 8#4, 10#4] := by
  refine require_eq_none.trans ?_
  revert mod1; decide

theorem formError_sfpmuli {imm16 : BitVec 16} {vd : Reg} {mod1 : Mode} :
    formError (.sfpmuli imm16 vd mod1) = none ↔ mod1 ∈ [0#4, 8#4] := by
  change (require _ _ <|> require _ _) = none ↔ _
  revert mod1; decide

/-- Settles O31: the addend of SFPADDI carries the sign flip, SFPMULI has none. -/
theorem immediateAddAndMultiply : Obligations.ImmediateAddAndMultiply := by
  refine ⟨fun imm16 vd mod1 s hm => ?_, fun imm16 vd mod1 s hm => ?_⟩
  · exact madResult_of_lanewiseTo rfl (formError_sfpaddi.2 hm) fun l => by rw [← negIf_eq_signFlip]; rfl
  · exact madResult_of_lanewiseTo rfl (formError_sfpmuli.2 hm) fun l => rfl

/-! ## SFPLUTFP32 -/

theorem formError_sfplutfp32 {vd : Reg} {mod1 : Mode} :
    formError (.sfplutfp32 vd mod1) = none ↔ mod1 &&& 11#4 ∈ [0#4, 2#4, 3#4, 8#4, 10#4, 11#4] := by
  refine require_eq_none.trans ?_
  revert mod1; decide

/-- Two breakpoints make three pieces (R118). -/
theorem lut3Piece_eq_countP (b : Word) : lut3Piece b = [0x3F800000#32, 0x40000000#32].countP fun t => t ≤ b := by
  simp only [lut3Piece, List.countP_cons, List.countP_nil, decide_eq_true_eq, BitVec.lt_def, BitVec.le_def,
    BitVec.toNat_ofNat]
  split_ifs <;> omega

/-- Five breakpoints make six pieces (R118). -/
theorem lut6Piece_eq_countP {last : Word} (b : Word) (h : 0x40000000#32 ≤ last) : lut6Piece last b =
    [0x3F000000#32, 0x3F800000#32, 0x3FC00000#32, 0x40000000#32, last].countP fun t => t ≤ b := by
  simp only [BitVec.le_def, BitVec.toNat_ofNat] at h
  simp only [lut6Piece, List.countP_cons, List.countP_nil, decide_eq_true_eq, BitVec.lt_def, BitVec.le_def,
    BitVec.toNat_ofNat]
  split_ifs <;> omega

/-- A 16-bit coefficient (R117). -/
theorem lut16ToFp32_eq_lut16 (h : Half) : lut16ToFp32 h = lut16 h := by
  rw [lut16ToFp32, lut16, extract_one, mkFp_zero, rebias, mkFp_append]

theorem lut6Half_eq_lut16 (swapped : Fin 3 → Bool) (j : Nat) (w : Word) :
    lut6Half swapped j w = lut16 (halfOf (swapped (Fin.ofNat 3 (j / 2)) != (j % 2 == 1)) w) := by
  rw [lut6Half, lut16ToFp32_eq_lut16, Bool.xor_comm]; rfl

/-- The half of its register that holds the lower slope, as `LUT6_PACKING` has it (log entry 27). -/
def slopePacking (i : Nat) : Bool := Config.lut6SlopeSwapped (Fin.ofNat 3 i)

/-- The half of its register that holds the lower intercept. -/
def interceptPacking (i : Nat) : Bool := Config.lut6InterceptSwapped (Fin.ofNat 3 i)

/-- The coefficients are those of the piece that the breakpoints give (R118): one of three in FP32, one of three in
16 bits, one of six. -/
theorem lutCoeff_eq_lutPair (s : State) {table : Mode} (h : table ∈ [0#4, 2#4, 3#4, 8#4, 10#4, 11#4]) (b : Word)
    (l : LaneIx) :
    lutCoeff s table b l = lutPair slopePacking interceptPacking s table (lutPiece table b) l := by
  have hcases : (table = 0#4 ∨ table = 8#4) ∨ table = 10#4 ∨ table = 2#4 ∨ table = 3#4 ∨ table = 11#4 := by
    revert table; decide
  obtain ht | rfl | rfl | ht := hcases
  · have hp : lutPiece table b = lut3Piece b := by
      rw [lut3Piece_eq_countP]; rcases ht with rfl | rfl <;> rfl
    rw [lutCoeff, lutPair, if_pos ht, if_pos ht, hp]; rfl
  · have hp : lutPiece 10#4 b = lut3Piece b := (lut3Piece_eq_countP b).symm
    rw [hp]
    simp only [lutCoeff, lut16ToFp32_eq_lut16]
    rfl
  · have hp : lutPiece 2#4 b = lut6Piece 0x40400000#32 b := (lut6Piece_eq_countP b (by decide)).symm
    rw [hp]
    simp only [lutCoeff, lut6Half_eq_lut16]
    rfl
  · have hp : lutPiece table b = lut6Piece 0x40800000#32 b := by
      rw [lut6Piece_eq_countP b (by decide)]; rcases ht with rfl | rfl <;> rfl
    rw [hp]
    simp only [lutCoeff, lut6Half_eq_lut16]
    rcases ht with rfl | rfl <;> rfl

theorem lutValue_eq_lutResult (s : State) {mod1 : Mode} (h : mod1 &&& 11#4 ∈ [0#4, 2#4, 3#4, 8#4, 10#4, 11#4])
    (l : LaneIx) : lutValue s mod1 l = lutResult slopePacking interceptPacking s mod1 l := by
  simp only [lutValue, lutResult, and_mag, lutCoeff_eq_lutPair s h, extract_one]
  rfl

/-- Settles O32: the packing is the model's own. -/
theorem lutEvaluatesThePieceOfTheMagnitude : Obligations.LutEvaluatesThePieceOfTheMagnitude :=
  ⟨slopePacking, interceptPacking, fun _ _ s h =>
    madResult_of_lanewiseTo rfl (formError_sfplutfp32.2 h) fun l => (lutValue_eq_lutResult s h l).symm⟩

/-! ## SFPMUL24 -/

theorem formError_sfpmul24 {va vb vd : Reg} {mod1 : Mode} :
    formError (.sfpmul24 va vb 9 vd mod1) = none ↔ mod1.getLsbD 1 = false := by
  change (require _ _ <|> require _ _) = none ↔ _
  revert mod1; decide

/-- The product modulo 2^23 does not look at the upper bits of the factors (R119). -/
theorem mul24_eq (upper : Bool) (a b : Word) : mul24 upper a b =
    if upper then BitVec.ofNat 32 ((a.toNat % 2 ^ 23) * (b.toNat % 2 ^ 23) / 2 ^ 23)
    else BitVec.ofNat 32 (a.toNat * b.toNat % 2 ^ 23) := by
  cases upper
  · exact congrArg (BitVec.ofNat 32) (Nat.mul_mod ..).symm
  · rfl

/-- Settles O33: of the two products only the low 23 bits of the factors count. -/
theorem multiplyTwentyThreeBits : Obligations.MultiplyTwentyThreeBits := fun _ _ _ _ _ h =>
  madResult_of_lanewiseTo rfl (formError_sfpmul24.2 h) fun _ => (mul24_eq ..).symm

end Sys2Proof.Machine

/-! # The FP32 field instructions (`42_fp_fields.md` R130 to R136) -/

namespace Sys2Proof.Machine

/-! ## What the instructions share -/

/-- A 1-cycle instruction without flags writes VD in the enabled lanes and nothing else. -/
theorem laneResult_of_lanewise {i : Instr} {s : State} {reads : List Reg} {vd : Reg} {val val' : LaneIx → Word}
    (he : exec i s = lanewise i reads s vd val) (hf : formError i = none) (hv : ∀ l, val' l = val l) :
    LaneResult i s reads (fun _ => vd) val' [] :=
  laneResult_of_lanewiseTo he hf rfl hv rfl

/-- The check of the instructions that have the modes 0 and 1. -/
theorem require_mode_lt_two {mod1 : Mode} {e : FormError} (h : mod1 = 0#4 ∨ mod1 = 1#4) :
    require (mod1 < 2) e = none := by
  rcases h with rfl | rfl <;> rfl

theorem formError_sfpsetexp {imm8 : BitVec 8} {vc vd : Reg} {mod1 : Mode} :
    formError (.sfpsetexp imm8 vc vd mod1) = none ↔ mod1 = 0#4 ∨ mod1 = 1#4 ∨ mod1 = 2#4 := by
  refine require_eq_none.trans ?_
  revert mod1; decide

/-- The sign bit of a word under an exponent and a mantissa. -/
theorem mkFp_signOf (c : Word) (e : BitVec 8) (m : BitVec 23) :
    mkFp (signOf c) e m = c.extractLsb' 31 1 ++ e ++ m := by
  rw [extract_one]; rfl

/-- Sign and exponent of a word over a mantissa. -/
theorem mkFp_signOf_expOf (c : Word) (m : BitVec 23) :
    mkFp (signOf c) (expOf c) m = c.extractLsb' 23 9 ++ m := by
  have h : c.extractLsb' 31 1 ++ expOf c = c.extractLsb' 23 9 :=
    BitVec.extractLsb'_append_extractLsb'_eq_extractLsb' rfl
  rw [mkFp_signOf, h]

/-- The sign bit of a word over a magnitude. -/
theorem mkSm_signOf (c : Word) (m : BitVec 31) : mkSm (signOf c) m = c.extractLsb' 31 1 ++ m := by
  rw [extract_one]; rfl

/-- A bit as a sign, over a magnitude. -/
theorem mkSm_decide_eq_one (b : BitVec 1) (m : BitVec 31) : mkSm (b = 1#1) m = b ++ m := by
  have h : BitVec.ofBool (b = 1#1) = b := by revert b; decide
  rw [mkSm, h]

/-! ## SFPDIVP2 and SFPSETEXP -/

/-- Settles O34: every mode of the two gives the sign and mantissa of VC around its exponent. -/
theorem exponentFieldIsReplacedOrAdded : Obligations.ExponentFieldIsReplacedOrAdded := by
  refine ⟨fun imm8 vc vd mod1 s hm => ?_, fun imm8 vc vd mod1 s hm => ?_⟩
  · refine laneResult_of_lanewise rfl (require_mode_lt_two hm) fun l => ?_
    rcases hm with rfl | rfl <;> exact (mkFp_signOf ..).symm
  · exact laneResult_of_lanewise rfl (formError_sfpsetexp.2 hm) fun l => (mkFp_signOf ..).symm

/-! ## SFPEXMAN, SFPSETSGN and SFPSETMAN -/

/-- A mantissa as an integer. -/
theorem zeroExtend_man (m : BitVec 23) : m.zeroExtend 32 = 0#9 ++ m := BitVec.setWidth_eq_append (by omega)

/-- A mantissa under its hidden bit (R132). -/
theorem hiddenBit_add_man (m : BitVec 23) : 0x00800000#32 + m.zeroExtend 32 = 0#8 ++ 1#1 ++ m := by
  apply BitVec.eq_of_toNat_eq
  have := m.isLt
  rw [zeroExtend_man, BitVec.toNat_add, toNat_append_add, toNat_append_add, toNat_append_add]
  simp only [BitVec.toNat_ofNat]
  omega

/-- Settles O35: in each of the two modes of the three, the moved field stands beside the fields of VC that stay. -/
theorem mantissaAndSignFieldsAreMoved : Obligations.MantissaAndSignFieldsAreMoved := by
  refine ⟨fun vc vd mod1 s hm => ?_, fun imm1 vc vd mod1 s hm => ?_, fun imm12 vc vd mod1 s hm => ?_⟩
  · refine laneResult_of_lanewise rfl (require_mode_lt_two hm) fun l => ?_
    rcases hm with rfl | rfl
    · exact (hiddenBit_add_man _).symm
    · exact ((BitVec.zero_add _).trans (zeroExtend_man _)).symm
  · refine laneResult_of_lanewise rfl (require_mode_lt_two hm) fun l => ?_
    rcases hm with rfl | rfl
    · exact (mkSm_signOf ..).symm
    · exact (mkSm_decide_eq_one ..).symm
  · refine laneResult_of_lanewise rfl (require_mode_lt_two hm) fun l => ?_
    rcases hm with rfl | rfl <;> exact (mkFp_signOf_expOf ..).symm

/-! ## Words as signed integers -/

theorem isNeg_iff_toInt_neg {w : Word} : isNeg w = true ↔ w.toInt < 0 := by
  rw [show isNeg w = w.msb from (BitVec.msb_eq_getLsbD_last w).symm, BitVec.msb_eq_toInt, decide_eq_true_iff]

/-- An integer in the range of a word is negative as the word is. -/
theorem isNeg_ofInt {z : ℤ} (h1 : -2 ^ 31 ≤ z) (h2 : z < 2 ^ 31) : isNeg (BitVec.ofInt 32 z) = true ↔ z < 0 := by
  rw [isNeg_iff_toInt_neg, BitVec.toInt_ofInt_eq_self (by decide) h1 h2]

/-- The two's complement absolute value, modulo 2^32 (R136 mode 0). -/
theorem intAbs_eq_ofInt_abs (w : Word) : intAbs w = BitVec.ofInt 32 |w.toInt| := by
  rw [intAbs]
  split
  case isTrue h =>
    rw [abs_of_neg (isNeg_iff_toInt_neg.1 h), BitVec.ofInt_neg, BitVec.ofInt_toInt, BitVec.zero_sub]
  case isFalse h =>
    rw [abs_of_nonneg (Int.not_lt.1 (mt isNeg_iff_toInt_neg.2 h)), BitVec.ofInt_toInt]

/-! ## SFPEXEXP -/

theorem formError_sfpexexp {vc vd : Reg} {mod1 : Mode} :
    formError (.sfpexexp vc vd mod1) = none ↔ mod1.getLsbD 2 = false := by
  refine require_eq_none.trans ?_
  revert mod1; decide

/-- The flag after a result whose test says `P` (R131, R150, R155). -/
theorem ccFlag_iff {set comp old test : Bool} {P : Prop} (h : test = true ↔ P) :
    ccFlag set comp old test = true ↔
      if comp then ¬(if set then P else old = true) else if set then P else old = true := by
  cases comp <;> cases set <;> simp [ccFlag, ← h]

/-- The exponent of a word as an integer, less the bias where it counts (R131). -/
def exponentOf (nodebias : Bool) (c : Word) : ℤ := ((expOf c).toNat : ℤ) - if nodebias then 0 else 127

theorem exponentOf_bounds (nodebias : Bool) (c : Word) :
    -127 ≤ exponentOf nodebias c ∧ exponentOf nodebias c ≤ 255 := by
  have h := (expOf c).isLt
  rw [exponentOf]
  split <;> omega

theorem exexp_eq_ofInt_exponentOf (nodebias : Bool) (c : Word) :
    exexp nodebias c = BitVec.ofInt 32 (exponentOf nodebias c) := by
  have he : (expOf c).zeroExtend 32 = BitVec.ofInt 32 (expOf c).toNat := by
    rw [BitVec.ofInt_natCast, BitVec.ofNat_toNat]
  rw [exexp, exponentOf, BitVec.sub_eq_add_neg, Int.sub_eq_add_neg, BitVec.ofInt_add, BitVec.ofInt_neg, he]
  cases nodebias <;> rfl

/-- The result of SFPEXEXP is negative as a word exactly if it is as an integer. -/
theorem isNeg_exexp (nodebias : Bool) (c : Word) : isNeg (exexp nodebias c) = true ↔ exponentOf nodebias c < 0 := by
  obtain ⟨hlow, hhigh⟩ := exponentOf_bounds nodebias c
  rw [exexp_eq_ofInt_exponentOf]
  exact isNeg_ofInt (by omega) (by omega)

/-- Settles O36: the integer is small enough for the word's sign to be its own. -/
theorem exponentIsExtractedAsInteger : Obligations.ExponentIsExtractedAsInteger := fun vc vd mod1 s h =>
  flagResult_of_lanewiseFlag rfl (formError_sfpexexp.2 h) (fun _ => (exexp_eq_ofInt_exponentOf ..).symm)
    (by simp [bit]) fun _ => ccFlag_iff (isNeg_exexp ..)

/-! ## SFPABS -/

/-- The FP32 absolute value: of the NaNs that stay as they are, only the negative ones differ from their magnitude. -/
theorem absWord_float (c : Word) : absWord true c =
    if expOf c = 255#8 ∧ manOf c ≠ 0#23 ∧ signOf c = true then c else 0#1 ++ magOf c := by
  have hpos (hs : signOf c = false) : c = 0#1 ++ magOf c := by
    conv_lhs => rw [← mkSm_signOf_magOf c, hs]
    rfl
  have hnan : isNan c = true ↔ expOf c = 255#8 ∧ manOf c ≠ 0#23 := isNan_iff
  rw [absWord, if_pos rfl, and_mag]
  by_cases hn : isNan c = true
  · obtain ⟨he, hm⟩ := hnan.1 hn
    by_cases hs : signOf c = true
    · rw [if_pos hn, if_pos ⟨he, hm, hs⟩]
    · rw [if_pos hn, if_neg fun ⟨_, _, h⟩ => hs h]
      exact hpos (Bool.eq_false_iff.2 hs)
  · rw [if_neg hn, if_neg fun ⟨he, hm, _⟩ => hn (hnan.2 ⟨he, hm⟩)]

/-- Settles O37: one lemma for each mode. -/
theorem absoluteValueKeepsTheEdgeCases : Obligations.AbsoluteValueKeepsTheEdgeCases := by
  intro vc vd mod1 s hm
  refine laneResult_of_lanewise rfl (require_mode_lt_two hm) fun l => ?_
  rcases hm with rfl | rfl
  · exact (intAbs_eq_ofInt_abs _).symm
  · exact (absWord_float _).symm

end Sys2Proof.Machine

/-! # The integer, logic and shift instructions (`43_integer_logic.md` R150 to R157) -/

namespace Sys2Proof.Machine

/-! ## What an instruction keeps of which it is no writer -/

theorem keepsStorage_of_exec {i : Instr} {s t : State} (h : exec i s = .next t) (hc : ¬isConfig i) (hs : ¬isStore i)
    (ha : ¬isAccess i) : KeepsStorage s t := by
  obtain ⟨hprogram, hthread, hoverlay, hr16, htensix, hdest, hconfig, -⟩ := stateChangesOnlyByItsWriters i s t h
  obtain ⟨hlaneConfig, hmacros, -⟩ := hconfig hc
  exact ⟨hlaneConfig, hmacros, hr16, fun k _ => by rw [hdest hs], htensix ha, hthread, hoverlay, hprogram⟩

/-! ## SFPAND, SFPOR, SFPXOR and SFPNOT -/

/-- Settles O38: with its mode given, each meaning is its bitwise operation. -/
theorem bitwiseLogic : Obligations.BitwiseLogic := by
  refine ⟨fun vb vc vd s => ⟨?_, ?_, ?_, ?_⟩, fun vc vd s => ⟨?_, ?_⟩⟩
  all_goals exact laneResult_of_lanewise rfl rfl fun _ => rfl

/-! ## Sums and differences of words as signed integers -/

theorem add_eq_ofInt_toInt_add {w : Nat} (x y : BitVec w) : x + y = BitVec.ofInt w (x.toInt + y.toInt) := by
  rw [BitVec.ofInt_add, BitVec.ofInt_toInt, BitVec.ofInt_toInt]

theorem sub_eq_ofInt_toInt_sub {w : Nat} (x y : BitVec w) : x - y = BitVec.ofInt w (x.toInt - y.toInt) := by
  rw [Int.sub_eq_add_neg, BitVec.ofInt_add, BitVec.ofInt_neg, BitVec.ofInt_toInt, BitVec.ofInt_toInt,
    BitVec.sub_eq_add_neg]

/-- A sign-extended immediate keeps its value (R72). -/
theorem toInt_sext12 (imm12 : BitVec 12) : (sext12 imm12).toInt = imm12.toInt :=
  BitVec.toInt_signExtend_of_le (by decide)

/-! ## SFPIADD -/

/-- The three forms of SFPIADD as integer arithmetic modulo 2^32 (R150). -/
theorem iaddValue_eq_ofInt (imm12 : BitVec 12) (mod1 : Mode) (c d : Word) : iaddValue imm12 mod1 c d =
    if mod1.getLsbD 0 then BitVec.ofInt 32 (c.toInt + imm12.toInt)
    else if mod1.getLsbD 1 then BitVec.ofInt 32 (c.toInt - d.toInt)
    else BitVec.ofInt 32 (c.toInt + d.toInt) := by
  rw [iaddValue, add_eq_ofInt_toInt_add, add_eq_ofInt_toInt_add, sub_eq_ofInt_toInt_sub, toInt_sext12]
  rfl

/-- The flag of an instruction whose mode bit `keep` leaves the old one in place (R150). -/
theorem ccFlag_not_iff {keep comp old test : Bool} {P : Prop} (h : test = true ↔ P) :
    ccFlag (!keep) comp old test = true ↔
      if comp then ¬(if keep then old = true else P) else if keep then old = true else P := by
  rw [ccFlag_iff h]
  cases keep <;> rfl

/-- Settles O39: the sum is the integer sum, and its sign is the sign of the word. -/
theorem integerAddAndSubtract : Obligations.IntegerAddAndSubtract := by
  intro imm12 vc vd mod1 s r
  have hv (l : LaneIx) : r l = iaddValue imm12 mod1 (s.lreg vc l) (s.lreg vd l) := (iaddValue_eq_ofInt ..).symm
  refine flagResult_of_lanewiseFlag rfl rfl hv (by simp [bit, imp_iff_not_or]) fun l => ?_
  rw [← hv]
  exact ccFlag_not_iff isNeg_iff_toInt_neg

/-! ## SFPLZ -/

theorem formError_sfplz {vc vd : Reg} {mod1 : Mode} :
    formError (.sfplz vc vd mod1) = none ↔ mod1.getLsbD 0 = false := by
  refine require_eq_none.trans ?_
  revert mod1; decide

/-- A number that is not zero has one bit more than its logarithm. -/
theorem size_eq_log2_add_one {n : Nat} (h : n ≠ 0) : n.size = n.log2 + 1 :=
  Nat.le_antisymm (Nat.size_le.2 Nat.lt_log2_self) (Nat.lt_size.2 (Nat.log2_self_le h))

/-- The leading zeros of a word are what its bits leave of 32 (R155). -/
theorem clz32_eq_sub_size (w : Word) : clz32 w = BitVec.ofNat 32 (32 - w.toNat.size) := by
  rw [clz32]
  split
  case isTrue h => subst h; rfl
  case isFalse h =>
    have hn : w.toNat ≠ 0 := fun h0 => h (BitVec.eq_of_toNat_eq h0)
    rw [size_eq_log2_add_one hn, Nat.add_comm, ← Nat.sub_sub]

/-- The operand of SFPLZ without its sign is the magnitude of VC (R155). -/
theorem lzOperand_eq (mod1 : Mode) (c : Word) :
    lzOperand mod1 c = if mod1.getLsbD 2 then 0#1 ++ c.extractLsb' 0 31 else c := by
  rw [lzOperand, and_mag]; rfl

/-- Settles O40: count and flag look at the same operand. -/
theorem leadingZerosAreCounted : Obligations.LeadingZerosAreCounted := by
  intro vc vd mod1 s hm c
  have hc (l : LaneIx) : lzOperand mod1 (s.lreg vc l) = c l := lzOperand_eq ..
  refine flagResult_of_lanewiseFlag rfl (formError_sfplz.2 hm) (fun l => ?_) (by simp [bit]) fun l => ?_
  · rw [clz32_eq_sub_size, hc]
  · rw [hc]
    exact ccFlag_iff decide_eq_true_iff

/-! ## SFPSHFT -/

theorem formError_sfpshft {imm12 : BitVec 12} {vc vd : Reg} {mod1 : Mode} :
    formError (.sfpshft imm12 vc vd mod1) = none ↔ mod1.getLsbD 3 = false := by
  refine require_eq_none.trans ?_
  revert mod1; decide

/-- The negation of a negative word, as a natural number; -2^31 gives 2^31 both ways. -/
theorem toNat_zero_sub_of_neg {w : Word} (h : w.toInt < 0) : (0#32 - w).toNat = (-w.toInt).toNat := by
  have := w.isLt
  rw [BitVec.toInt_eq_toNat_cond] at h ⊢
  rw [BitVec.toNat_sub, BitVec.toNat_ofNat]
  split at h <;> omega

theorem toInt_eq_toNat_of_nonneg {w : Word} (h : ¬w.toInt < 0) : w.toInt = w.toNat :=
  BitVec.toInt_eq_toNat_of_msb (by rw [BitVec.msb_eq_toInt, decide_eq_false h])

/-- The amount of a shift is the word as a signed integer (R156). -/
theorem shiftBy_eq_signedShift (arithmetic : Bool) (x amount : Word) :
    shiftBy arithmetic x amount = signedShift arithmetic x amount.toInt := by
  by_cases h : amount.toInt < 0
  · rw [shiftBy, if_pos (isNeg_iff_toInt_neg.2 h), signedShift, if_neg (Int.not_le.2 h), toNat_zero_sub_of_neg h]
  · rw [shiftBy, if_neg (mt isNeg_iff_toInt_neg.1 h), signedShift, if_pos (Int.not_lt.1 h),
      toInt_eq_toNat_of_nonneg h, Int.toNat_natCast]

/-- Settles O41: operand and amount are picked by the same mode bits. -/
theorem shiftBySignedAmount : Obligations.ShiftBySignedAmount := by
  intro imm12 vc vd mod1 s hm
  refine laneResult_of_lanewise rfl (formError_sfpshft.2 hm) fun l => ?_
  rw [shiftBy_eq_signedShift, apply_ite BitVec.toInt, toInt_sext12, apply_ite (s.lreg · l)]
  rfl

/-! ## SFPSHFT2 -/

theorem formError_sfpshft2 {x : BitVec 12} {vc vd : Reg} {mod1 : Mode} :
    formError (.sfpshft2 x vc vd mod1) = none ↔ mod1 < 7#4 ∧ (mod1 = 6#4 ∨ x.extractLsb' 4 8 = 0#8) := by
  simp [formError, require_eq_none]

/-- The pending set of SFPSHFT2 (R263). -/
theorem shft2Pending_eq (vd : Reg) (mod1 : Mode) : shft2Pending vd mod1 =
    if mod1 = 2#4 then [0#4, 1#4, 2#4, 3#4] else if mod1 = 3#4 ∨ mod1 = 4#4 then pendingAfter false vd else [] := by
  rw [← pendingDst_eq_pendingAfter, shft2Pending, pendingDst]
  split_ifs with h2 h34
  · rfl
  · rcases h34 with rfl | rfl <;> rfl
  · obtain ⟨h3, h4⟩ := not_or.1 h34
    simp [h3, h4, regSet_eq]

/-! ## SFPSHFT2: the shifts (R157) -/

/-- Without a demand for an SFPNOP an instruction ends as it retires. -/
theorem State.retire_requireNop_false (s : State) (p : List Reg) : (s.retire p).requireNop false = s.retire p := rfl

/-- Modes 5 and 6 act within one lane, and leave nothing to wait for (R263, R268). -/
theorem exec_sfpshft2_of_shift {x : BitVec 12} {vc vd : Reg} {mod1 : Mode} {s : State} (hm : mod1 = 5#4 ∨ mod1 = 6#4) :
    exec (.sfpshft2 x vc vd mod1) s = lanewise (.sfpshft2 x vc vd mod1) [x.extractLsb' 0 4] s vd
      fun l => shiftBy false (s.lreg (x.extractLsb' 0 4) l) (if mod1 = 5#4 then s.lreg vc l else sext12 x) := by
  change execSfpshft2 x vc vd mod1 s = _
  rcases hm with rfl | rfl <;>
    simp [execSfpshft2, shft2Reads, shft2State, shft2Pending_eq, State.retire_requireNop_false, lanewise, lanewiseTo]

/-- Settles O43: the two modes are lanewise shifts by a signed amount. -/
theorem registerAndImmediateShiftTwo : Obligations.RegisterAndImmediateShiftTwo := by
  refine fun x vc vd s => ⟨fun hx => ?mode5, ?mode6⟩
  case mode5 =>
    exact laneResult_of_lanewise (exec_sfpshft2_of_shift (.inl rfl)) (formError_sfpshft2.2 ⟨by decide, .inr hx⟩)
      fun l => (shiftBy_eq_signedShift ..).symm
  case mode6 =>
    refine laneResult_of_lanewise (exec_sfpshft2_of_shift (.inr rfl)) (formError_sfpshft2.2 ⟨by decide, .inl rfl⟩)
      fun l => ?_
    rw [shiftBy_eq_signedShift, if_neg (by decide), toInt_sext12]

/-! ## SFPSHFT2: the moves between registers and lanes (R157, R158) -/

/-- The rotation within a row of eight lanes, by the number of the lane. -/
theorem ror1_eq_ofNat (v : LaneIx → Word) (l : LaneIx) :
    ror1 v l = if l.val % 8 = 0 then v (Fin.ofNat 32 (l.val + 7)) else v (Fin.ofNat 32 (l.val - 1)) := by
  have hl := l.isLt
  rw [ror1_eq, ← apply_ite v]
  refine congrArg v (Fin.ext ?_)
  split <;> simp only [Fin.val_ofNat] <;> omega

theorem up8_eq_ofNat (v : LaneIx → Word) (l : LaneIx) :
    up8 v l = if l.val < 24 then v (Fin.ofNat 32 (l.val + 8)) else 0#32 := by
  rw [up8_eq]
  split
  case isTrue h => exact congrArg v (Fin.ext (Nat.mod_eq_of_lt (by omega)).symm)
  case isFalse h => rfl

/-- `COPY4` in an enabled lane: the four registers move, the sources read before any of them is written. -/
theorem lreg_copy4_of_enabled {s : State} {l : LaneIx} (h : laneEnabled s l = true) (new3 : LaneIx → Word) (r : Reg) :
    (copy4 s new3).lreg r l = if r = 3#4 then new3 l else if r = 2#4 then s.lreg 3 l else if r = 1#4 then s.lreg 2 l
      else if r = 0#4 then s.lreg 1 l else s.lreg r l := by
  simp [copy4, State.lreg_writeLanes, h]

theorem lreg_copy4_of_disabled {s : State} {l : LaneIx} (h : ¬laneEnabled s l = true) (new3 : LaneIx → Word) (r : Reg) :
    (copy4 s new3).lreg r l = s.lreg r l := by
  simp [copy4, State.lreg_writeLanes, h]

/-- SFPSHFT2 writes registers alone. -/
theorem sfpshft2_frame {x : BitVec 12} {vc vd : Reg} {mod1 : Mode} {s t : State}
    (h : exec (.sfpshft2 x vc vd mod1) s = .next t) :
    KeepsFlags s t ∧ KeepsSwitch s t ∧ KeepsStack s t ∧ KeepsPrng s t ∧ KeepsStorage s t := by
  obtain ⟨-, -, -, -, -, -, -, hprng, hswitch, hstack, hflags⟩ := stateChangesOnlyByItsWriters _ s t h
  exact ⟨hflags id, hswitch id, hstack id, hprng id, keepsStorage_of_exec h id id id⟩

/-- Where it may issue, an admitted SFPSHFT2 leaves the registers of `shft2State`. -/
theorem exec_sfpshft2_of_mayIssue {x : BitVec 12} {vc vd : Reg} {mod1 : Mode} {s : State}
    (hform : formError (.sfpshft2 x vc vd mod1) = none) (hissue : MayIssue s (shft2Reads x vc mod1)) :
    ∃ t, exec (.sfpshft2 x vc vd mod1) s = .next t ∧
      (∀ l r, t.lreg r l = (shft2State x vc vd mod1 s).lreg r l) ∧
      Advances s t (shft2Pending vd mod1) (mod1 = 2#4 || mod1 = 3#4 || mod1 = 4#4) := by
  have hpos : (shft2State x vc vd mod1 s).pos = s.pos := Updates.shft2State (i := .sfpshft2 x vc vd mod1).pos
  exact ⟨_, execSfpshft2_next.2 ⟨hform, hissue, rfl⟩, fun _ _ => rfl, congrArg (· + 1) hpos, rfl, rfl⟩

/-- What an enabled lane finds in `LReg[3]` after COPY4 in modes 0 to 2 (R157). -/
def copy4Fill (s : State) (vc : Reg) (mod1 : Mode) : LaneIx → Word :=
  if mod1 = 0#4 then fun _ => 0#32 else if mod1 = 1#4 then up8 (s.lreg 0) else ror1 (s.lreg vc)

theorem shft2State_of_copy {x : BitVec 12} {vc vd : Reg} {mod1 : Mode} {s : State} (h : mod1 < 3#4) :
    shft2State x vc vd mod1 s = copy4 s (copy4Fill s vc mod1) := by
  have h3 : mod1 = 0#4 ∨ mod1 = 1#4 ∨ mod1 = 2#4 := by bv_omega
  rcases h3 with rfl | rfl | rfl <;> rfl

theorem shft2State_of_move {x : BitVec 12} {vc vd : Reg} {mod1 : Mode} {s : State}
    (h : mod1 = 3#4 ∨ mod1 = 4#4) : shft2State x vc vd mod1 s =
      s.writeLanes (fun _ => vd) fun l => if mod1 = 4#4 ∧ l.val % 8 = 0 then 0#32 else ror1 (s.lreg vc) l := by
  rcases h with rfl | rfl
  · rfl
  · simp only [true_and]; rfl

section Registers

variable {s t : State} {dst : LaneIx → Reg} {val : LaneIx → Word}

/-- COPY4 reaches `LReg[0..3]` of the enabled lanes, and moves them. -/
theorem moved_of_copy4 (ht : ∀ l r, t.lreg r l = (copy4 s val).lreg r l) :
    KeepsRegs s t (fun l r => laneEnabled s l = true ∧ r < 4#4) ∧ ∀ l, laneEnabled s l = true →
      t.lreg 0 l = s.lreg 1 l ∧ t.lreg 1 l = s.lreg 2 l ∧ t.lreg 2 l = s.lreg 3 l ∧ t.lreg 3 l = val l := by
  refine ⟨fun l r hr => ?_, fun l hl => ?_⟩
  · rw [ht]
    by_cases hl : laneEnabled s l = true
    · have hr4 : ¬r < 4#4 := fun h => hr ⟨hl, h⟩
      have hne (k : Reg) (hk : k < 4#4) : r ≠ k := fun h => hr4 (h ▸ hk)
      rw [lreg_copy4_of_enabled hl, if_neg (hne 3#4 (by decide)), if_neg (hne 2#4 (by decide)),
        if_neg (hne 1#4 (by decide)), if_neg (hne 0#4 (by decide))]
    · exact lreg_copy4_of_disabled hl ..
  · simp only [ht, lreg_copy4_of_enabled hl]
    exact ⟨rfl, rfl, rfl, rfl⟩

/-- A write reaches its destination in the enabled lanes, and holds there (R16). -/
theorem written_of_writeLanes (ht : ∀ l r, t.lreg r l = (s.writeLanes dst val).lreg r l) :
    KeepsRegs s t (fun l r => laneEnabled s l = true ∧ r = dst l ∧ dst l < 8#4) ∧
      Written t (laneEnabled s) dst val := by
  refine ⟨fun l r hr => ?_, fun l hl hd => ?_⟩
  · rw [ht, State.lreg_writeLanes, if_neg hr]
  · rw [ht, State.lreg_writeLanes, if_pos ⟨hl, rfl, hd⟩]

end Registers

/-- Settles O42: modes 0 to 2 are COPY4 with their fill, modes 3 and 4 write the moved lanes to VD. -/
theorem crossLaneShuffles : Obligations.CrossLaneShuffles := by
  intro x vc vd mod1 s hm hx ror new3 hi
  have hror : ror = ror1 (s.lreg vc) := funext fun l => (ror1_eq_ofNat ..).symm
  have hnew : new3 = copy4Fill s vc mod1 := by
    funext l
    simp only [new3, copy4Fill, hror, ← up8_eq_ofNat]
    split_ifs <;> rfl
  have hissue : MayIssue s (shft2Reads x vc mod1) := by
    have h56 : ¬(mod1 = 5#4 ∨ mod1 = 6#4) := by bv_omega
    rwa [shft2Reads, if_neg h56]
  obtain ⟨t, hexec, hregs, hpos, hpending, hnop⟩ :=
    exec_sfpshft2_of_mayIssue (vd := vd) (formError_sfpshft2.2 ⟨by bv_omega, .inr hx⟩) hissue
  obtain ⟨hflags, hswitch, hstack, hprng, hstorage⟩ := sfpshft2_frame hexec
  refine ⟨t, hexec, fun h => ?copies, fun h => ?moves, hflags, hswitch, hstack, hprng, hstorage, hpos,
    hpending.trans (shft2Pending_eq vd mod1), hnop.trans ?nop⟩
  case copies =>
    rw [shft2State_of_copy h, ← hnew] at hregs
    exact moved_of_copy4 hregs
  case moves =>
    rw [shft2State_of_move h, ← hror] at hregs
    exact written_of_writeLanes hregs
  case nop =>
    clear * - hm
    revert mod1; decide

end Sys2Proof.Machine

/-! # Compare and swap (`44_compare_convert.md` R170 to R174) -/

namespace Sys2Proof.Machine

/-! ## SFPSETCC -/

theorem formError_sfpsetcc {imm1 : BitVec 1} {vc vd : Reg} {mod1 : Mode} :
    formError (.sfpsetcc imm1 vc vd mod1) = none ↔ vd < 8#4 := by
  refine require_eq_none.trans ?_
  rw [isGpr_eq, decide_eq_true_iff]

/-- The flag that SFPSETCC writes is true only where predication is on, and never in the modes with bit 3 (R170). -/
theorem setccFlag_iff {useFlags : Bool} {mod1 : Mode} {imm1 : BitVec 1} {c : Word} :
    setccFlag useFlags mod1 imm1 c = true ↔ useFlags = true ∧ mod1.getLsbD 3 = false ∧
      if mod1.getLsbD 0 then imm1 = 1#1
      else if mod1.getLsbD 2 then if mod1.getLsbD 1 then c = 0#32 else isNeg c = false
      else if mod1.getLsbD 1 then c ≠ 0#32 else isNeg c = true := by
  unfold setccFlag bit
  split_ifs <;> simp_all

/-- The four tests of SFPSETCC, by the low three bits of its mode. -/
theorem setcc_test_modes {mod1 : Mode} (h : mod1.getLsbD 0 = false) :
    mod1.extractLsb' 0 3 = 0#3 ∧ mod1.getLsbD 2 = false ∧ mod1.getLsbD 1 = false ∨
    mod1.extractLsb' 0 3 = 2#3 ∧ mod1.getLsbD 2 = false ∧ mod1.getLsbD 1 = true ∨
    mod1.extractLsb' 0 3 = 4#3 ∧ mod1.getLsbD 2 = true ∧ mod1.getLsbD 1 = false ∨
    mod1.extractLsb' 0 3 = 6#3 ∧ mod1.getLsbD 2 = true ∧ mod1.getLsbD 1 = true := by
  revert mod1; decide

theorem toInt_eq_zero_iff {w : Word} : w.toInt = 0 ↔ w = 0#32 := by
  rw [← BitVec.toInt_inj, BitVec.toInt_zero]

/-- Where it may issue, SFPSETCC sets the flags and nothing else. -/
theorem exec_sfpsetcc_of_mayIssue {imm1 : BitVec 1} {vc vd : Reg} {mod1 : Mode} {s : State} (hvd : vd < 8#4)
    (hissue : MayIssue s []) : ∃ t, exec (.sfpsetcc imm1 vc vd mod1) s = .next t ∧
      (∀ l, (t.lane l).laneFlag = if laneEnabled s l then
        setccFlag (s.lane l).useLaneFlags mod1 imm1 (s.lreg vc l) else (s.lane l).laneFlag) ∧
      (∀ l r, t.lreg r l = s.lreg r l) ∧ Advances s t [] false := by
  refine ⟨_, execSfpsetcc_next.2 ⟨formError_sfpsetcc.2 hvd, hissue, rfl⟩, fun l => ?_, fun l r => ?_, ?_⟩
  · rw [State.retire_lane, State.setFlags_lane]
    split <;> rfl
  · rw [State.retire_lreg, State.lreg_setFlags]
  · exact ⟨by simp, rfl, rfl⟩

/-- Settles O44: the tests of the word are those of the integer. -/
theorem setConditionFlags : Obligations.SetConditionFlags := by
  intro imm1 vc vd mod1 s hvd hissue
  obtain ⟨t, hexec, hflag, hregs, hadvances⟩ :=
    exec_sfpsetcc_of_mayIssue (imm1 := imm1) (vc := vc) (mod1 := mod1) hvd hissue
  obtain ⟨-, -, -, -, -, -, -, hprng, hswitch, hstack, -⟩ := stateChangesOnlyByItsWriters _ s t hexec
  refine ⟨t, hexec, fun l hl => ?enabled, fun l hl => ?disabled, hswitch id, hstack id,
    fun l r _ => hregs l r, hprng id, keepsStorage_of_exec hexec id id id, hadvances⟩
  case enabled =>
    rw [hflag, if_pos hl, setccFlag_iff]
    refine and_congr_right fun _ => and_congr_right fun _ => ?_
    cases h0 : mod1.getLsbD 0
    · obtain ⟨hm, h2, h1⟩ | ⟨hm, h2, h1⟩ | ⟨hm, h2, h1⟩ | ⟨hm, h2, h1⟩ := setcc_test_modes h0
      all_goals rw [hm, h2, h1]
      · exact isNeg_iff_toInt_neg
      · exact not_congr toInt_eq_zero_iff.symm
      · exact Bool.eq_false_iff.trans ((not_congr isNeg_iff_toInt_neg).trans Int.not_lt)
      · exact toInt_eq_zero_iff.symm
    · rfl
  case disabled => rw [hflag, if_neg (ne_true_of_eq_false hl)]

/-! ## The sign-magnitude order (R171) -/

theorem smGt_iff {x y : Word} : smGt x y = true ↔ orderKey y < orderKey x := decide_eq_true_iff

/-- The key of a word without sign is its magnitude. -/
theorem orderKey_of_pos {w : Word} (h : signOf w = false) : orderKey w = (magOf w).toNat :=
  if_neg (ne_true_of_eq_false h)

/-- The key of a word with sign: magnitude 0 stands just below 0. -/
theorem orderKey_of_neg {w : Word} (h : signOf w = true) : orderKey w = -((magOf w).toNat : ℤ) - 1 := if_pos h

/-- The key is negative exactly for the words with sign. -/
theorem orderKey_neg_iff {w : Word} : orderKey w < 0 ↔ signOf w = true := by
  cases h : signOf w
  · rw [orderKey_of_pos h]; simp
  · rw [orderKey_of_neg h]; simp only [iff_true]; omega

theorem eq_of_sign_mag {x y : Word} (hs : signOf x = signOf y) (hm : (magOf x).toNat = (magOf y).toNat) : x = y := by
  rw [← mkSm_signOf_magOf x, ← mkSm_signOf_magOf y, hs, BitVec.eq_of_toNat_eq hm]

theorem orderKey_injective {x y : Word} (h : orderKey x = orderKey y) : x = y := by
  have hs : signOf x = signOf y := by rw [Bool.eq_iff_iff, ← orderKey_neg_iff, ← orderKey_neg_iff, h]
  refine eq_of_sign_mag hs ?_
  cases hy : signOf y
  · rw [orderKey_of_pos (hs.trans hy), orderKey_of_pos hy] at h; omega
  · rw [orderKey_of_neg (hs.trans hy), orderKey_of_neg hy] at h; omega

theorem orderKey_bounds (x : Word) : -2 ^ 31 ≤ orderKey x ∧ orderKey x ≤ 2 ^ 31 - 1 := by
  have := (magOf x).isLt
  cases h : signOf x
  · rw [orderKey_of_pos h]; omega
  · rw [orderKey_of_neg h]; omega

/-- Any reading of words as signed magnitudes, increasing in the magnitude, is ordered as the key is: FP32 numbers and
sign-magnitude integers are two of them. -/
theorem orderKey_lt_of_signed_lt {f : ℕ → ℚ} (hf : Monotone f) (h0 : 0 ≤ f 0) {x y : Word}
    (h : (if signOf y then -1 else 1) * f (magOf y).toNat < (if signOf x then -1 else 1) * f (magOf x).toNat) :
    orderKey y < orderKey x := by
  have hpos (n : ℕ) : 0 ≤ f n := h0.trans (hf n.zero_le)
  have hx := hpos (magOf x).toNat
  have hy := hpos (magOf y).toNat
  cases hsx : signOf x <;> cases hsy : signOf y <;>
    simp only [hsx, hsy, if_true, if_false, Bool.false_eq_true, one_mul, neg_mul, neg_lt_neg_iff] at h
  · rw [orderKey_of_pos hsx, orderKey_of_pos hsy]; exact_mod_cast hf.reflect_lt h
  · rw [orderKey_of_pos hsx, orderKey_of_neg hsy]; omega
  · linarith
  · rw [orderKey_of_neg hsx, orderKey_of_neg hsy]
    have := hf.reflect_lt h
    omega

/-- The two's complement integer of a word by sign and magnitude. -/
theorem toInt_eq_mag (w : Word) : w.toInt = ((magOf w).toNat : ℤ) - if signOf w then 2 ^ 31 else 0 := by
  have hs : signOf w = true ↔ w.toInt < 0 := isNeg_iff_toInt_neg
  have hw := w.isLt
  rw [magOf_toNat, if_congr hs rfl rfl, BitVec.toInt_eq_toNat_cond]
  split_ifs <;> omega

/-- The infinities stand around the finite words, and the NaNs around the infinities. -/
theorem orderKey_infinity : orderKey (infinity false) = 0x7F800000 ∧ orderKey (infinity true) = -0x7F800001 := by decide

theorem magOf_lt_of_finite {w : Word} (h : Finite w) : (magOf w).toNat < 0x7F800000 := by
  have he : (expOf w).toNat ≠ 255 := fun h0 => h (BitVec.eq_of_toNat_eq h0)
  have := (expOf w).isLt
  have := (manOf w).isLt
  rw [magOf_eq]; omega

theorem lt_magOf_of_nan {w : Word} (h : Nan w) : 0x7F800000 < (magOf w).toNat := by
  obtain ⟨he, hm⟩ := h
  have hm : (manOf w).toNat ≠ 0 := fun h0 => hm (BitVec.eq_of_toNat_eq h0)
  have he : (expOf w).toNat = 255 := congrArg BitVec.toNat he
  rw [magOf_eq]; omega

theorem finite_between_infinities {x : Word} (h : Finite x) :
    orderKey (infinity true) < orderKey x ∧ orderKey x < orderKey (infinity false) := by
  obtain ⟨hpos, hneg⟩ := orderKey_infinity
  have := magOf_lt_of_finite h
  rw [hpos, hneg]
  cases hs : signOf x
  · rw [orderKey_of_pos hs]; omega
  · rw [orderKey_of_neg hs]; omega

/-- Settles O45: each reading of the words by sign and magnitude, compared with the key. -/
theorem signMagnitudeOrder : Obligations.SignMagnitudeOrder := by
  refine ⟨fun x y => smGt_iff, fun x y => orderKey_injective, orderKey_bounds, fun x y _ _ h => ?fp, fun x y h => ?sm,
    fun x y hx hy => ?nonneg, fun x y hx hy => ?neg, fun x h => ?finite, fun n h => ?nan, by decide, by decide,
    by decide, by decide⟩
  case fp =>
    rw [fpValue_eq_signedUnits, fpValue_eq_signedUnits, signedUnits, signedUnits,
      div_lt_div_iff_of_pos_right (by positivity)] at h
    exact smGt_iff.2 (orderKey_lt_of_signed_lt (f := fun m => magUnits m)
      (Nat.mono_cast.comp magUnits_strictMono.monotone) (Nat.cast_nonneg _) h)
  case sm => exact smGt_iff.2 (orderKey_lt_of_signed_lt (f := fun m => m) Nat.mono_cast (Nat.cast_nonneg _) h)
  case nonneg =>
    have hsx : signOf x = false := Bool.eq_false_iff.2 (mt isNeg_iff_toInt_neg.1 (Int.not_lt.2 hx))
    have hsy : signOf y = false := Bool.eq_false_iff.2 (mt isNeg_iff_toInt_neg.1 (Int.not_lt.2 hy))
    rw [smGt_iff, orderKey_of_pos hsx, orderKey_of_pos hsy, toInt_eq_mag, toInt_eq_mag, hsx, hsy]
    rfl
  case neg =>
    have hsx : signOf x = true := isNeg_iff_toInt_neg.2 hx
    have hsy : signOf y = true := isNeg_iff_toInt_neg.2 hy
    rw [smGt_iff, orderKey_of_neg hsx, orderKey_of_neg hsy, toInt_eq_mag, toInt_eq_mag, if_pos hsx, if_pos hsy]
    omega
  case finite =>
    obtain ⟨hlow, hhigh⟩ := finite_between_infinities h
    exact ⟨smGt_iff.2 hlow, smGt_iff.2 hhigh⟩
  case nan =>
    obtain ⟨hpos, hneg⟩ := orderKey_infinity
    have hm := lt_magOf_of_nan h
    rw [smGt_iff, smGt_iff]
    split
    · next hs => rw [hneg, orderKey_of_neg hs]; omega
    · next hs => rw [hpos, orderKey_of_pos (Bool.eq_false_iff.2 hs)]; omega

/-! ## SFPGT and SFPLE -/

/-- What SFPGT and SFPLE make of a lane, from the result `r` of the comparison: stack, register and flag, each where
its mode bit asks for it, the last two only if the lane is enabled (R172). -/
def compareLane (vd : Reg) (mod1 : Mode) (r enabled : Bool) (x : Lane) : Lane :=
  let y : Lane := { x with flagStack := if bit mod1 1 then mutateTop (bit mod1 2) r x.flagStack else x.flagStack }
  let z := if bit mod1 3 && enabled then y.write vd (if r then 0xFFFFFFFF#32 else 0#32) else y
  { z with laneFlag := if bit mod1 0 && enabled then r else z.laneFlag }

section Compare

variable {vc vd : Reg} {mod1 : Mode} {r : LaneIx → Bool} {s : State} {l : LaneIx}

/-- The stacks have no part in lane enable, and no register and no flag moves before its own update. -/
theorem lane_compareState :
    (compareState vd mod1 r s).lane l = compareLane vd mod1 (r l) (laneEnabled s l) (s.lane l) := by
  unfold compareState compareLane
  extract_lets t1 t2 y z
  have h1 : t1.lane l = y := by simp only [t1, y]; split <;> simp
  have hen1 : laneEnabled t1 l = laneEnabled s l := by
    simp only [t1]
    split
    · refine laneEnabled_congr ?_ ?_ ?_ <;> rw [State.mapLanes_lane]
    · rfl
  have h2 : t2.lane l = z := by
    simp only [t2, z, ← h1, ← hen1]
    cases bit mod1 3 <;> simp
  have hen2 : laneEnabled t2 l = laneEnabled s l := by
    rw [← hen1]
    simp only [t2]
    split
    · exact laneEnabled_writeLanes ..
    · rfl
  rw [← h2, ← hen2]
  cases bit mod1 0
  · rfl
  · simp only [if_true, State.setFlags_lane, Bool.true_and]
    split <;> rfl

variable {b en : Bool} {x : Lane}

theorem laneFlag_compareLane : (compareLane vd mod1 b en x).laneFlag =
    if mod1.getLsbD 0 = true ∧ en = true then b else x.laneFlag := by
  simp only [compareLane, apply_ite Lane.laneFlag, Lane.write_laneFlag, ite_self, Bool.and_eq_true, bit]

theorem flagStack_compareLane : (compareLane vd mod1 b en x).flagStack =
    if mod1.getLsbD 1 then mutateTop (mod1.getLsbD 2) b x.flagStack else x.flagStack := by
  unfold compareLane
  extract_lets y z
  have hz : z.flagStack = y.flagStack := by simp only [z]; split <;> simp
  exact hz

theorem lreg_compareLane_same (h3 : mod1.getLsbD 3 = true) (hvd : vd < 8#4) :
    (compareLane vd mod1 b true x).lreg l vd = if b then 0xFFFFFFFF#32 else 0#32 := by
  unfold compareLane
  extract_lets y z
  rw [Lane.lreg_laneFlag]
  simp only [z, bit, h3, Bool.and_true, if_true, Lane.lreg_write_same _ _ _ hvd]

theorem lreg_compareLane_other {q : Reg} (h : ¬(mod1.getLsbD 3 = true ∧ en = true ∧ q = vd ∧ vd < 8#4)) :
    (compareLane vd mod1 b en x).lreg l q = x.lreg l q := by
  unfold compareLane
  extract_lets y z
  have hy : y.lreg l q = x.lreg l q := Lane.lreg_flagStack ..
  rw [Lane.lreg_laneFlag, ← hy]
  simp only [z, Bool.and_eq_true, bit]
  split
  case isTrue h3 =>
    by_cases hq : q = vd
    · rw [Lane.write_high _ _ fun hvd => h ⟨h3.1, h3.2, hq, hvd⟩]
    · exact Lane.lreg_write_other _ _ _ hq
  case isFalse => rfl

/-- `MUTATE_STACK` finds an entry in the lane. -/
theorem stack_nonempty_iff : (bit mod1 1 && (s.lane l).flagStack.isEmpty) = false ↔
    (mod1.getLsbD 1 = true → (s.lane l).flagStack ≠ []) := by
  rw [bit]
  cases mod1.getLsbD 1 <;> simp

theorem compareExec_of_mayIssue {i : Instr} (hi : formError i = none) (hissue : MayIssue s [])
    (hstack : mod1.getLsbD 1 = true → ∀ l : LaneIx, (s.lane l).flagStack ≠ []) :
    ∃ t, compareExec i vd mod1 r s = .next t ∧
      (∀ l, t.lane l = compareLane vd mod1 (r l) (laneEnabled s l) (s.lane l)) ∧
      t.pending = [] ∧ t.nopRequired = false :=
  ⟨_, compareExec_next.2 ⟨hi, hissue, fun l => stack_nonempty_iff.2 fun h => hstack h l, rfl⟩,
    fun _ => lane_compareState, rfl, rfl⟩

/-- The state that SFPGT and SFPLE leave, as R172 says it. -/
theorem compareResult_of_compareExec {i : Instr} {test : LaneIx → Prop}
    (hi : i = .sfpgt vc vd mod1 ∨ i = .sfple vc vd mod1) (he : exec i s = compareExec i vd mod1 r s)
    (hr : ∀ l, r l = true ↔ test l)
    (hstack : mod1.getLsbD 1 = true → ∀ l : LaneIx, (s.lane l).flagStack ≠ []) : CompareResult i s vd mod1 test := by
  intro hissue
  have hform : formError i = none := by rcases hi with rfl | rfl <;> rfl
  obtain ⟨t, hcompare, hlane, hpending, hnop⟩ :=
    compareExec_of_mayIssue (vd := vd) (r := r) hform hissue hstack
  have hexec : exec i s = .next t := he.trans hcompare
  have hreg (l : LaneIx) (q : Reg) :
      t.lreg q l = (compareLane vd mod1 (r l) (laneEnabled s l) (s.lane l)).lreg l q := by rw [State.lreg, hlane]
  obtain ⟨-, -, -, -, -, -, -, hprng, hswitch, -, -⟩ := stateChangesOnlyByItsWriters i s t hexec
  have hwriters : ¬writesPrng i ∧ ¬writesSwitch i ∧ ¬isConfig i ∧ ¬isStore i ∧ ¬isAccess i := by
    rcases hi with rfl | rfl <;> exact ⟨id, id, id, id, id⟩
  obtain ⟨hwprng, hwswitch, hconfig, hstore, haccess⟩ := hwriters
  refine ⟨t, hexec, fun l q hq => ?kept, fun l h3 hl hvd => ?written, fun l hl h0 => ?flag, fun l h => ?flagKept,
    fun h1 l => ?stackKept, fun h1 l top rest htop => ?stack, hswitch hwswitch, hprng hwprng,
    keepsStorage_of_exec hexec hconfig hstore haccess, (exec_effect hexec).pos, hpending, hnop⟩
  case kept => exact (hreg l q).trans (lreg_compareLane_other hq)
  case written =>
    have hv : t.lreg vd l = if r l then 0xFFFFFFFF#32 else 0#32 := by
      rw [hreg, hl]; exact lreg_compareLane_same h3 hvd
    exact ⟨fun ht => hv.trans (if_pos ((hr l).2 ht)), fun ht => hv.trans (if_neg (mt (hr l).1 ht))⟩
  case flag => rw [hlane, laneFlag_compareLane, if_pos ⟨h0, hl⟩, hr]
  case flagKept => rw [hlane, laneFlag_compareLane, if_neg fun ⟨h0, hl⟩ => h ⟨hl, h0⟩]
  case stackKept => rw [hlane, flagStack_compareLane, if_neg (ne_true_of_eq_false h1)]
  case stack =>
    refine ⟨_, by rw [hlane, flagStack_compareLane, if_pos h1, htop]; rfl, ?_⟩
    rw [← hr]
    split <;> simp

/-- `MUTATE_STACK` on an empty stack faults at the lowest such lane, before anything else is done (R172 c, R244). -/
theorem exec_compare_of_empty_stack {i : Instr} {l : LaneIx} (he : exec i s = compareExec i vd mod1 r s)
    (hi : formError i = none) (hissue : MayIssue s []) (h1 : mod1.getLsbD 1 = true) (hl : (s.lane l).flagStack = [])
    (hlow : ∀ k, k < l → (s.lane k).flagStack ≠ []) : exec i s = .fault (.flagStackUnderflow s.pos l.val) := by
  rw [he, compareExec, admitted_of_formError_none hi, issue_of_mayIssue hissue]
  refine faultIf_of_lowest ?_ fun k hk => stack_nonempty_iff.2 fun _ => hlow k hk
  rw [bit, h1, hl]; rfl

end Compare

/-- Settles O46: SFPGT and SFPLE are one update, of a test and of its negation. -/
theorem compareWritesFlagStackAndRegister : Obligations.CompareWritesFlagStackAndRegister := by
  refine fun vc vd mod1 s => ⟨fun hstack => ⟨?gt, ?le⟩, fun h1 hissue l hl hlow => ?fault⟩
  case gt => exact compareResult_of_compareExec (.inl rfl) rfl (fun l => smGt_iff) hstack
  case le =>
    refine compareResult_of_compareExec (.inr rfl) rfl (fun l => ?_) hstack
    rw [Bool.not_eq_true', ← Bool.not_eq_true, smGt_iff, not_lt]
  case fault =>
    exact ⟨exec_compare_of_empty_stack rfl rfl hissue h1 hl hlow, exec_compare_of_empty_stack rfl rfl hissue h1 hl hlow⟩

/-! ## SFPSWAP -/

theorem formError_sfpswap {vc vd : Reg} {mod1 : Mode} : formError (.sfpswap vc vd mod1) = none ↔ mod1 ≤ 9#4 := by
  refine require_eq_none.trans ?_
  revert mod1; decide

/-- The rows in which VD gets the minimum (R174). -/
theorem swapMin_iff_mem {mod1 : Mode} (h : mod1 ≤ 9#4) {k : Nat} (hk : k < 4) :
    swapMin mod1 k = true ↔ k ∈ minRows mod1 := by
  have hall : ∀ m : Mode, m ≤ 9#4 → ∀ k < 4, swapMin m k = true ↔ k ∈ minRows m := by decide
  exact hall mod1 h k hk

/-- The lesser of two words in the order of R171. -/
def lesser (c d : Word) : Word := if orderKey c ≤ orderKey d then c else d

/-- The greater of two words in the order of R171. -/
def greater (c d : Word) : Word := if orderKey c ≤ orderKey d then d else c

/-- The new words of VC and VD (R174). -/
theorem swapPair_eq {mod1 : Mode} (h : mod1 ≤ 9#4) {k : Nat} (hk : k < 4) (c d : Word) :
    (swapPair mod1 k c d).1 =
      (if mod1 = 0#4 then d else if k ∈ minRows mod1 then greater c d else lesser c d) ∧
    (swapPair mod1 k c d).2 = if mod1 = 0#4 then c else if k ∈ minRows mod1 then lesser c d else greater c d := by
  have hlo : (if smGt c d then d else c) = lesser c d := by simp only [lesser, smGt_iff, ← not_le, ite_not]
  have hhi : (if smGt c d then c else d) = greater c d := by simp only [greater, smGt_iff, ← not_le, ite_not]
  simp only [swapPair, hlo, hhi, swapMin_iff_mem h hk]
  split_ifs <;> exact ⟨rfl, rfl⟩

/-- Two writes to the same lanes: the second holds, and the first where it names another register. -/
theorem lreg_writeLanes_writeLanes (s : State) (vc vd : Reg) (first second : LaneIx → Word) (r : Reg) (l : LaneIx) :
    ((s.writeLanes (fun _ => vc) first).writeLanes (fun _ => vd) second).lreg r l =
      if laneEnabled s l = true ∧ r < 8#4 then if r = vd then second l else if r = vc then first l else s.lreg r l
      else s.lreg r l := by
  rw [State.lreg_writeLanes, State.lreg_writeLanes, laneEnabled_writeLanes]
  by_cases h : laneEnabled s l = true ∧ r < 8#4
  · obtain ⟨hen, hr⟩ := h
    by_cases hd : r = vd
    · subst hd; simp [hen, hr]
    · by_cases hc : r = vc
      · subst hc; simp [hen, hr, hd]
      · simp [hd, hc]
  · rw [if_neg fun ⟨hen, hr, hd⟩ => h ⟨hen, hr ▸ hd⟩, if_neg fun ⟨hen, hr, hc⟩ => h ⟨hen, hr ▸ hc⟩, if_neg h]

theorem laneRow_eq (l : LaneIx) : laneRow l = l.val / 8 := rfl

theorem exec_sfpswap_of_mayIssue {vc vd : Reg} {mod1 : Mode} {s : State} (h : mod1 ≤ 9#4)
    (hindex : ∀ l : LaneIx, enableDestIndex (s.lane l).laneConfig = false)
    (hissue : MayIssue s (if mod1 = 0#4 then [] else [vc, vd])) :
    ∃ t, exec (.sfpswap vc vd mod1) s = .next t ∧
      (∀ l r, t.lreg r l = if laneEnabled s l = true ∧ r < 8#4 then
        if r = vd then (swapPair mod1 (l.val / 8) (s.lreg vc l) (s.lreg vd l)).2
        else if r = vc then (swapPair mod1 (l.val / 8) (s.lreg vc l) (s.lreg vd l)).1 else s.lreg r l
        else s.lreg r l) ∧ Advances s t (regSet fun r => r == vc || r == vd) false := by
  refine ⟨_, execSfpswap_next.2 ⟨formError_sfpswap.2 h, by simpa using hindex, hissue, rfl⟩, fun l r => ?_, ?_⟩
  · rw [State.retire_lreg, lreg_writeLanes_writeLanes, laneRow_eq]
  · exact ⟨by simp, rfl, rfl⟩

/-- Settles O47: the second write is that of VD, so with VC = VD its clause says what is left. -/
theorem swapOrdersThePairByRow : Obligations.SwapOrdersThePairByRow := by
  intro vc vd mod1 s hm hindex lo hi hissue
  have hrow (l : LaneIx) : l.val / 8 < 4 := Nat.div_lt_of_lt_mul l.isLt
  obtain ⟨t, hexec, hregs, hadvances⟩ := exec_sfpswap_of_mayIssue hm hindex hissue
  obtain ⟨-, -, -, -, -, -, -, hprng, hswitch, hstack, hflags⟩ := stateChangesOnlyByItsWriters _ s t hexec
  refine ⟨t, hexec, fun l r hr => ?kept, fun l hl hvd => ?vd, fun hne l hl hvc => ?vc, hflags id, hswitch id, hstack id,
    hprng id, keepsStorage_of_exec hexec id id id, hadvances⟩
  case kept =>
    rw [hregs]
    split
    case isTrue h =>
      obtain ⟨hl, hr8⟩ := h
      rw [if_neg fun hd => hr ⟨hl, .inr hd, hr8⟩, if_neg fun hc => hr ⟨hl, .inl hc, hr8⟩]
    case isFalse => rfl
  case vd =>
    rw [hregs, if_pos ⟨hl, hvd⟩, if_pos rfl]
    exact (swapPair_eq hm (hrow l) _ _).2
  case vc =>
    rw [hregs, if_pos ⟨hl, hvc⟩, if_neg hne, if_pos rfl]
    exact (swapPair_eq hm (hrow l) _ _).1

end Sys2Proof.Machine

/-! # SFPCAST (`44_compare_convert.md` R176, R177) -/

namespace Sys2Proof.Machine

/-! ## The magnitude of a cast integer -/

/-- A number `u` of units of 2^-149 lies `rem` steps of `w` units above the magnitude `k`, and the next magnitude lies
`2 * half` steps above `k`. -/
structure Between (u k rem half w : ℕ) : Prop where
  pos : 0 < w
  rem_lt : rem < 2 * half
  finite : k + 1 < 0x7F800000
  below : u = magUnits k + rem * w
  above : magUnits (k + 1) = magUnits k + 2 * half * w

/-- A significand and its successor, as magnitudes under one exponent. -/
theorem magUnits_significand {f : ℕ} (e : ℕ) (h1 : 2 ^ 23 ≤ f) (h2 : f < 2 ^ 24) :
    magUnits ((126 + e) * 2 ^ 23 + f) = f * 2 ^ (126 + e) ∧
      magUnits ((126 + e) * 2 ^ 23 + f + 1) = f * 2 ^ (126 + e) + 2 ^ (126 + e) := by
  refine ⟨magUnits_normal h1 h2.le, ?_⟩
  rw [Nat.add_assoc, magUnits_normal (by omega) (by omega), Nat.add_mul, Nat.one_mul]

section CastMag

variable {m : ℕ} (h0 : m ≠ 0) (h31 : m < 2 ^ 31) (s : Bool) {up : Bool → ℕ → ℕ → Bool}

include h0 in
/-- An integer of at most 24 bits is a magnitude (R177). -/
theorem castMag_of_exact (h23 : m.log2 ≤ 23) : ∃ k w, Between (m * 2 ^ 149) k 0 1 w ∧
    castMag s m up = mkSm s (BitVec.ofNat 31 k) := by
  have hlow := Nat.log2_self_le h0
  have hhigh := Nat.lt_log2_self (n := m)
  rw [castMag, if_pos h23]
  generalize m.log2 = e at *
  obtain ⟨d, hd⟩ := Nat.exists_eq_add_of_le h23
  have hf : m <<< (23 - e) = m * 2 ^ d := by rw [Nat.shiftLeft_eq, hd, Nat.add_sub_cancel_left]
  have h1 : 2 ^ 23 ≤ m * 2 ^ d := by rw [hd, pow_add]; exact Nat.mul_le_mul_right _ hlow
  have h2 : m * 2 ^ d < 2 ^ 24 := by
    rw [show 24 = e + 1 + d by omega, pow_add]; exact Nat.mul_lt_mul_of_pos_right hhigh (by positivity)
  obtain ⟨hk, hk1⟩ := magUnits_significand e h1 h2
  refine ⟨(126 + e) * 2 ^ 23 + m * 2 ^ d, 2 ^ (125 + e), ⟨by positivity, by norm_num, by omega, ?_, ?_⟩, ?_⟩
  · rw [hk, Nat.zero_mul, Nat.add_zero, Nat.mul_assoc, ← pow_add]
    congr 2; omega
  · rw [hk1, hk, show 126 + e = 125 + e + 1 by omega, pow_succ]; ring
  · rw [hf]; rfl

include h0 h31 in
/-- Of an integer of more bits the last ones are cut off, and `up` says whether the next magnitude is taken (R177). -/
theorem castMag_of_cut (h23 : ¬m.log2 ≤ 23) : ∃ k rem half w, Between (m * 2 ^ 149) k rem half w ∧
    castMag s m up = mkSm s (BitVec.ofNat 31 (if up (k % 2 = 1) rem half then k + 1 else k)) := by
  have hlow := Nat.log2_self_le h0
  have hhigh := Nat.lt_log2_self (n := m)
  have he : m.log2 < 31 := (Nat.log2_lt h0).2 h31
  rw [castMag, if_neg h23]
  generalize m.log2 = e at *
  obtain ⟨d, rfl⟩ := Nat.exists_eq_add_of_lt (Nat.lt_of_not_le h23)
  have hsh : 23 + d + 1 - 23 = d + 1 := by omega
  have hpos : 0 < 2 ^ (d + 1) := by positivity
  have h1 : 2 ^ 23 ≤ m / 2 ^ (d + 1) := by
    rw [Nat.le_div_iff_mul_le hpos, ← pow_add]; exact hlow
  have h2 : m / 2 ^ (d + 1) < 2 ^ 24 := by
    rw [Nat.div_lt_iff_lt_mul hpos, ← pow_add, show 24 + (d + 1) = 23 + d + 1 + 1 by omega]; exact hhigh
  have hw : 2 ^ (126 + (23 + d + 1)) = 2 ^ (d + 1) * 2 ^ 149 := by rw [← pow_add]; congr 1; omega
  obtain ⟨hk, hk1⟩ := magUnits_significand (23 + d + 1) h1 h2
  have hpar : ((126 + (23 + d + 1)) * 2 ^ 23 + m / 2 ^ (d + 1)) % 2 = m / 2 ^ (d + 1) % 2 := by omega
  refine ⟨(126 + (23 + d + 1)) * 2 ^ 23 + m / 2 ^ (d + 1), m % 2 ^ (d + 1), 2 ^ d, 2 ^ 149,
    ⟨by positivity, ?_, by omega, ?_, ?_⟩, ?_⟩
  · rw [← pow_succ']; exact Nat.mod_lt _ hpos
  · rw [hk, hw, ← Nat.mul_assoc, ← Nat.add_mul, Nat.div_add_mod']
  · rw [hk1, hk, hw, pow_succ']
  · rw [hpar, castPack, hsh, Nat.shiftRight_eq_div_pow, Nat.add_sub_cancel]
    congr 2
    split <;> omega

include h0 h31 in
/-- `castMag` gives the magnitude below the integer, or the next one where `up` says so. -/
theorem castMag_spec (hup : ∀ odd half, 0 < half → up odd 0 half = false) : ∃ k rem half w,
    Between (m * 2 ^ 149) k rem half w ∧
      castMag s m up = mkSm s (BitVec.ofNat 31 (if up (k % 2 = 1) rem half then k + 1 else k)) := by
  by_cases h23 : m.log2 ≤ 23
  · obtain ⟨k, w, hbetween, hcast⟩ := castMag_of_exact h0 s h23
    exact ⟨k, 0, 1, w, hbetween, by rw [hup _ _ Nat.one_pos]; exact hcast⟩
  · exact castMag_of_cut h0 h31 s h23

end CastMag

/-- The real number of the integer and of the magnitudes around it. -/
theorem smValue_eq_signedUnits (c : Word) : smValue c = signedUnits (signOf c) ((magOf c).toNat * 2 ^ 149) := by
  have h : smValue c = (if signOf c then -1 else 1) * ((magOf c).toNat : ℚ) := rfl
  rw [h, signedUnits, Nat.cast_mul, Nat.cast_pow, Nat.cast_ofNat, ← mul_assoc, mul_div_cancel_right₀ _ (by positivity)]

/-! ## To nearest (R177) -/

section Between

variable {u k rem half w : ℕ} (h : Between u k rem half w)

include h

theorem Between.lt : u < magUnits (k + 1) := by
  rw [h.below, h.above]
  exact Nat.add_lt_add_left (Nat.mul_lt_mul_of_pos_right h.rem_lt h.pos) _

/-- Rounding to nearest goes by the steps: up beyond the half, and at the half from an odd magnitude. -/
theorem roundedMag_of_between (h23 : 2 ^ 23 ≤ u) :
    roundedMag u = if (rem > half || (rem = half && k % 2 = 1)) then k + 1 else k := by
  obtain ⟨j, -, hj, hj1, hround⟩ := roundedMag_spec h23
  have hk : magUnits k ≤ u := h.below ▸ Nat.le_add_right ..
  have hjk := magUnits_strictMono.lt_iff_lt.1 (hj.trans_lt h.lt)
  have hkj := magUnits_strictMono.lt_iff_lt.1 (hk.trans_lt hj1)
  obtain rfl : j = k := by omega
  have hless : magUnits j + magUnits (j + 1) < 2 * u ↔ half < rem := by
    rw [h.above, h.below, ← Nat.mul_lt_mul_right (b := half) (c := rem) h.pos, Nat.mul_assoc]; omega
  have htie : magUnits j + magUnits (j + 1) = 2 * u ↔ rem = half := by
    rw [h.above, h.below, ← Nat.mul_left_inj (b := rem) (c := half) h.pos.ne', Nat.mul_assoc]; omega
  rw [hround]
  refine if_congr ?_ rfl rfl
  simp only [hless, htie, Bool.or_eq_true, Bool.and_eq_true, decide_eq_true_iff, gt_iff_lt]

/-- No magnitude lies between the number and a magnitude beside it; an exact one is its own neighbour. -/
theorem not_between_neighbour {up : Bool} (hup : up = true → rem ≠ 0) (n : ℕ) :
    let j := if up then k + 1 else k
    ¬(magUnits j < magUnits n ∧ magUnits n ≤ u) ∧ ¬(u ≤ magUnits n ∧ magUnits n < magUnits j) := by
  intro j
  have hlt := h.lt
  have hbelow := h.below
  obtain hn | hn : k + 1 ≤ n ∨ n ≤ k := by omega
  · have := magUnits_strictMono.monotone hn
    cases up <;> simp only [j, if_true, if_false, Bool.false_eq_true] <;> omega
  · have := magUnits_strictMono.monotone hn
    cases up
    · simp only [j, if_false, Bool.false_eq_true]; omega
    · have : 0 < rem * w := Nat.mul_pos (Nat.pos_of_ne_zero (hup rfl)) h.pos
      simp only [j, if_true]; omega

end Between

/-- The conversion to nearest rounds as FMA does, far from flush and overflow. -/
theorem castRne_eq_roundUnits {c : Word} (h : magOf c ≠ 0#31) (sign : Bool) : ∃ u,
    smValue c = signedUnits (signOf c) u ∧ 2 ^ 23 ≤ u ∧ u < (2 ^ 25 - 1) * 2 ^ 252 ∧
      castRne c sign = roundUnits (signOf c) u := by
  have h0 : (magOf c).toNat ≠ 0 := fun h0 => h (BitVec.eq_of_toNat_eq h0)
  obtain ⟨k, rem, half, w, hbetween, hcast⟩ := castMag_spec h0 (magOf c).isLt (signOf c)
    (up := fun odd rem half => rem > half || (rem = half && odd)) (by simp; omega)
  have h23 : 2 ^ 23 ≤ (magOf c).toNat * 2 ^ 149 :=
    (Nat.mul_le_mul_right _ (Nat.pos_of_ne_zero h0)).trans' (by norm_num)
  have hmag := roundedMag_of_between hbetween h23
  have hrange : roundedMag ((magOf c).toNat * 2 ^ 149) < 0x7F800000 := by
    have := hbetween.finite
    rw [hmag]; split <;> omega
  refine ⟨_, smValue_eq_signedUnits c, h23, (roundedMag_lt_iff h23).1 hrange, ?_⟩
  rw [castRne, if_neg h, hcast, roundUnits_of_le h23, if_pos hrange, hmag]

/-- SFPCAST to nearest (R177). -/
theorem castNearest_castRne (c : Word) (sign : Bool) : CastNearest c (castRne c sign) := by
  refine ⟨fun h : magOf c = 0#31 => ?zero, fun h : magOf c ≠ 0#31 => ?nonzero⟩
  case zero =>
    have hc : mkSm (signOf c) 0#31 = c := (congrArg _ h.symm).trans (mkSm_signOf_magOf c)
    rw [castRne, if_pos h]
    cases sign
    · exact .inl (by rw [Bool.and_false]; rfl)
    · exact .inr (by rw [Bool.and_true, hc])
  case nonzero =>
    obtain ⟨u, hu, hlow, hhigh, hround⟩ := castRne_eq_roundUnits h sign
    rw [hu, hround]
    exact nearest_roundUnits _ hlow hhigh

/-! ## To a neighbour (R176) -/

theorem signedUnits_lt_iff {s : Bool} {a b : ℕ} :
    signedUnits s a < signedUnits s b ↔ if s then b < a else a < b := by
  have h : (0 : ℚ) < 2 ^ 149 := by positivity
  cases s <;> simp [signedUnits, neg_div, div_lt_div_iff_of_pos_right h]

theorem signedUnits_le_iff {s : Bool} {a b : ℕ} :
    signedUnits s a ≤ signedUnits s b ↔ if s then b ≤ a else a ≤ b := by
  rw [← not_lt, signedUnits_lt_iff]
  cases s <;> simp

theorem signedUnits_false_nonneg (a : ℕ) : 0 ≤ signedUnits false a := by
  simp only [signedUnits, Bool.false_eq_true, if_false]; positivity

theorem signedUnits_true_nonpos (a : ℕ) : signedUnits true a ≤ 0 := by
  simp only [signedUnits, if_true, neg_one_mul, neg_div, neg_nonpos]; positivity

/-- No number of the other sign lies between a number that is not zero and one of its sign. -/
theorem not_between_of_ne {s s' : Bool} (hs : s' ≠ s) {u : ℕ} (h0 : u ≠ 0) (j n : ℕ) :
    ¬(signedUnits s j < signedUnits s' n ∧ signedUnits s' n ≤ signedUnits s u) ∧
      ¬(signedUnits s u ≤ signedUnits s' n ∧ signedUnits s' n < signedUnits s j) := by
  obtain rfl : s' = !s := by revert s s'; decide
  have hu : signedUnits s u ≠ 0 := mt signedUnits_eq_zero.1 h0
  cases s
  · have hx : signedUnits true n ≤ 0 := signedUnits_true_nonpos n
    have hu' := lt_of_le_of_ne (signedUnits_false_nonneg u) hu.symm
    exact ⟨fun ⟨h, _⟩ => (h.trans_le hx).not_ge (signedUnits_false_nonneg j), fun ⟨h, _⟩ => (hu'.trans_le h).not_ge hx⟩
  · have hx : 0 ≤ signedUnits false n := signedUnits_false_nonneg n
    have hu' := lt_of_le_of_ne (signedUnits_true_nonpos u) hu
    exact ⟨fun ⟨_, h⟩ => (h.trans_lt hu').not_ge hx, fun ⟨_, h⟩ => (hx.trans_lt h).not_ge (signedUnits_true_nonpos j)⟩

/-- No FP32 number lies between a signed number of units and a magnitude of its sign, if no magnitude does. -/
theorem castNeighbour_of_magnitude {c : Word} {u j : ℕ} (hu : smValue c = signedUnits (signOf c) u) (h0 : u ≠ 0)
    (hj : j < 0x7F800000)
    (hbetween : ∀ n, ¬(magUnits j < magUnits n ∧ magUnits n ≤ u) ∧ ¬(u ≤ magUnits n ∧ magUnits n < magUnits j)) :
    CastNeighbour c (mkSm (signOf c) (BitVec.ofNat 31 j)) := by
  refine ⟨finite_mkSm hj, (fields_mkSm _ _).1, fun x _ => ?_⟩
  rw [hu, fpValue_mkSm (by omega), fpValue_eq_signedUnits]
  by_cases hs : signOf x = signOf c
  · obtain ⟨habove, hbelow⟩ := hbetween (magOf x).toNat
    rw [hs]
    simp only [signedUnits_lt_iff, signedUnits_le_iff]
    cases signOf c
    · exact ⟨habove, hbelow⟩
    · exact ⟨fun ⟨h1, h2⟩ => hbelow ⟨h2, h1⟩, fun ⟨h1, h2⟩ => habove ⟨h2, h1⟩⟩
  · exact not_between_of_ne hs h0 ..

/-- SFPCAST to a neighbour, whatever the free choice (R176, log entry 20). -/
theorem castNeighbour_castRns {c prng : Word} (h : 2 ^ 24 < (magOf c).toNat) (sign : Bool) :
    CastNeighbour c (castRns c prng sign) := by
  have h0 : (magOf c).toNat ≠ 0 := by omega
  obtain ⟨k, rem, half, w, hbetween, hcast⟩ := castMag_spec h0 (magOf c).isLt (signOf c)
    (up := fun _ rem _ => rem ≠ 0 && Config.castRnsUp c prng) (by simp)
  rw [castRns, if_neg (Nat.not_le.2 h), hcast]
  refine castNeighbour_of_magnitude (smValue_eq_signedUnits c) (by positivity) ?_
    (not_between_neighbour hbetween fun hup => of_decide_eq_true (Bool.and_eq_true_iff.1 hup).1)
  have := hbetween.finite
  split <;> omega

/-! ## SFPCAST (R176) -/

theorem formError_sfpcast {vc vd : Reg} {mod1 : Mode} : formError (.sfpcast vc vd mod1) = none ↔ mod1 < 4#4 :=
  require_eq_none.trans decide_eq_true_iff

/-- Two's complement to sign-magnitude (R176 mode 3). -/
theorem castSm_eq (c : Word) :
    castSm c = if c.getLsbD 31 then 0x80000000#32 ||| (0#32 - c) else c := by
  have hsign : c &&& 0x80000000#32 = if c.getLsbD 31 then 0x80000000#32 else 0#32 := by
    have h : c &&& BitVec.twoPow 32 31 = if c.getLsbD 31 then BitVec.twoPow 32 31 else 0#32 := BitVec.and_twoPow c 31
    exact h
  rw [castSm, hsign, signOf]
  split
  · rfl
  · exact BitVec.zero_or

/-- A conversion writes VD, and in its stochastic modes the PRNG, which no register read sees. -/
theorem lreg_writeLanes_setPrng {b : Prop} [Decidable b] (s : State) (dst : LaneIx → Reg) (val prng : LaneIx → Word)
    (p : List Reg) (l : LaneIx) (r : Reg) :
    ((if b then (s.writeLanes dst val).setPrng prng else s.writeLanes dst val).retire p).lreg r l =
      (s.writeLanes dst val).lreg r l := by
  rw [State.retire_lreg]
  split
  · exact State.lreg_setPrng ..
  · rfl

/-- SFPCAST by its mode (R176). -/
theorem castLane_modes (c prng : Word) (sign : Bool) :
    castLane 0#4 c prng sign = castRne c sign ∧ castLane 1#4 c prng sign = castRns c prng sign ∧
      castLane 2#4 c prng sign = intAbs c ∧ castLane 3#4 c prng sign = castSm c := by
  simp [castLane]

theorem castRns_of_le {c : Word} (h : (magOf c).toNat ≤ 2 ^ 24) (prng : Word) (sign : Bool) :
    castRns c prng sign = castRne c sign := if_pos h

theorem exec_sfpcast_of_mayIssue {vc vd : Reg} {mod1 : Mode} {s : State} (hm : mod1 < 4#4) (hissue : MayIssue s []) :
    ∃ t, exec (.sfpcast vc vd mod1) s = .next t ∧
      (∀ l r, t.lreg r l = (s.writeLanes (fun _ => vd) fun l =>
        castLane mod1 (s.lreg vc l) (s.lane l).prng (Config.drawSign s.pos l.val)).lreg r l) ∧
      t.pending = [] ∧ t.nopRequired = false :=
  ⟨_, execSfpcast_next.2 ⟨formError_sfpcast.2 hm, hissue, rfl⟩, lreg_writeLanes_setPrng s _ _ _ _, rfl, rfl⟩

/-- Settles O48: one lemma for each mode. -/
theorem castBetweenNumberFormats : Obligations.CastBetweenNumberFormats := by
  intro vc vd mod1 s hm hissue
  obtain ⟨t, hexec, hregs, hpending, hnop⟩ := exec_sfpcast_of_mayIssue (vc := vc) (vd := vd) hm hissue
  obtain ⟨-, -, -, -, -, -, -, hprng, hswitch, hstack, hflags⟩ := stateChangesOnlyByItsWriters _ s t hexec
  obtain ⟨hkept, hwritten⟩ := written_of_writeLanes hregs
  refine ⟨t, hexec, hkept, fun l hl hvd => ?_, hprng, fun l hl => ?disabled, hflags id, hswitch id, hstack id,
    keepsStorage_of_exec hexec id id id, (exec_effect hexec).pos, hpending, hnop⟩
  case disabled => rw [(disabledLanesKeepTheirState _ s t l hexec hl).1 id]
  rw [hwritten l hl hvd]
  beta_reduce
  obtain ⟨hzero, hone, htwo, hthree⟩ :=
    castLane_modes (s.lreg vc l) (s.lane l).prng (Config.drawSign s.pos l.val)
  refine ⟨?nearest, ?stochastic, ?absolute, ?signMagnitude⟩
  case nearest =>
    rintro rfl
    rw [hzero]; exact castNearest_castRne ..
  case stochastic =>
    rintro rfl
    rw [hone]
    split
    case isTrue h => rw [castRns_of_le h]; exact castNearest_castRne ..
    case isFalse h => exact castNeighbour_castRns (Nat.lt_of_not_le h) _
  case absolute =>
    rintro rfl
    rw [htwo, intAbs_eq_ofInt_abs]
  case signMagnitude =>
    rintro rfl
    rw [hthree, castSm_eq]

end Sys2Proof.Machine

/-! # SFPSTOCHRND and SFPARECIP (`44_compare_convert.md` R178 to R184) -/

namespace Sys2Proof.Machine

/-! ## The rounding modes of SFPSTOCHRND (R178) -/

section Rounding

variable {mode : BitVec 2} {n v disc : ℕ} {stoch : Bool}

theorem mode_cases (h : mode ≠ 3#2) : mode = 0#2 ∨ mode = 1#2 ∨ mode = 2#2 := by
  revert mode; decide

theorem roundsUp_nearest : roundsUp 0#2 n disc stoch = true ↔ 0 < n ∧ 2 ^ (n - 1) ≤ disc := by
  simp [roundsUp]

/-- Adding half of the divisor before the division rounds up from the half onwards. -/
theorem add_half_div (h : 0 < n) :
    (v + 2 ^ (n - 1)) / 2 ^ n = v / 2 ^ n + if 2 ^ (n - 1) ≤ v % 2 ^ n then 1 else 0 := by
  have hd := Nat.div_add_mod' v (2 ^ n)
  have hr := Nat.mod_lt v (show 0 < 2 ^ n by positivity)
  have hp : 2 ^ n = 2 * 2 ^ (n - 1) := by rw [← pow_succ', Nat.sub_add_cancel h]
  refine Nat.div_eq_of_lt_le ?_ ?_ <;> split <;> simp only [Nat.add_mul] <;> omega

/-- A number without its last `n` bits, rounded (R178). -/
def rounded (mode : BitVec 2) (n v : ℕ) (stoch : Bool) : ℕ :=
  v >>> n + if roundsUp mode n (v % 2 ^ n) stoch then 1 else 0

/-- To nearest: half away from zero, and nothing to do where no bit goes. -/
theorem rounded_nearest : rounded 0#2 n v stoch = if n = 0 then v else (v + 2 ^ (n - 1)) / 2 ^ n := by
  rw [rounded, Nat.shiftRight_eq_div_pow, if_congr roundsUp_nearest rfl rfl]
  obtain rfl | hn := Nat.eq_zero_or_pos n
  · simp
  · rw [if_neg hn.ne', add_half_div hn]
    simp only [hn, true_and]

theorem rounded_towardZero : rounded 2#2 n v stoch = v / 2 ^ n := Nat.shiftRight_eq_div_pow ..

theorem rounded_either : rounded mode n v stoch = v / 2 ^ n ∨ rounded mode n v stoch = v / 2 ^ n + 1 := by
  rw [rounded, Nat.shiftRight_eq_div_pow]
  split
  · exact .inr rfl
  · exact .inl rfl

end Rounding

/-! ## Flavor A: a shorter float (R179) -/

/-- A word without its last bits. -/
theorem toNat_shiftRight_shiftLeft (c : Word) (n : ℕ) : (c >>> n <<< n).toNat = c.toNat / 2 ^ n * 2 ^ n := by
  rw [BitVec.toNat_shiftLeft, BitVec.toNat_ushiftRight, Nat.shiftLeft_eq, Nat.shiftRight_eq_div_pow]
  exact Nat.mod_eq_of_lt ((Nat.div_mul_le_self ..).trans_lt c.isLt)

/-- Below the infinities there is room for rounding up. -/
theorem toNat_shiftRight_shiftLeft_add {c : Word} (h : expOf c ≠ 255#8) {n : ℕ} (hn : n ≤ 16) :
    (c >>> n <<< n + BitVec.ofNat 32 (2 ^ n)).toNat = c.toNat / 2 ^ n * 2 ^ n + 2 ^ n := by
  have he : (expOf c).toNat ≠ 255 := fun h0 => h (BitVec.eq_of_toNat_eq h0)
  have hc := c.isLt
  have hle := Nat.div_mul_le_self c.toNat (2 ^ n)
  have hpow : 2 ^ n ≤ 2 ^ 16 := Nat.pow_le_pow_right (by norm_num) hn
  rw [expOf_toNat] at he
  rw [BitVec.toNat_add, toNat_shiftRight_shiftLeft, BitVec.toNat_ofNat]
  generalize 2 ^ n = p at *
  generalize c.toNat / p * p = d at *
  omega

/-- The word rounded at bit `n` (R179). -/
theorem toNat_roundAt {c : Word} (h : expOf c ≠ 255#8) {n : ℕ} (hn : n ≤ 16) (mode : BitVec 2) (stoch : Bool) :
    (if roundsUp mode n (c.toNat % 2 ^ n) stoch then c >>> n <<< n + BitVec.ofNat 32 (2 ^ n) else c >>> n <<< n).toNat =
      rounded mode n c.toNat stoch * 2 ^ n := by
  rw [rounded, Nat.shiftRight_eq_div_pow]
  split
  · rw [toNat_shiftRight_shiftLeft_add h hn, Nat.add_mul, Nat.one_mul]
  · rw [toNat_shiftRight_shiftLeft, Nat.add_zero]

theorem roundsFloat_rndFloat {mod1 : BitVec 3} {mode : BitVec 2} (hm : mode ≠ 3#2) (c prng : Word) :
    RoundsFloat mod1 mode c (rndFloat mod1 mode c prng) := by
  obtain ⟨n, hn⟩ : ∃ n, (if mod1 = 0#3 then 13 else 16) = n := ⟨_, rfl⟩
  have hn16 : 0 < n ∧ n ≤ 16 := by split at hn <;> omega
  obtain ⟨hpos, h16⟩ := hn16
  simp only [RoundsFloat, rndFloat, hn, show c.extractLsb' 23 8 = expOf c from rfl]
  by_cases h0 : expOf c = 0#8
  · simp only [h0, if_true]
  by_cases h255 : expOf c = 255#8
  · simp only [h255, if_true]
    rw [if_neg (by decide), if_neg (by decide)]
    exact mkFp_signOf ..
  simp only [h0, h255, if_false, toNat_roundAt h255 h16]
  generalize Config.stochRndUp mod1 c n prng = stoch
  obtain rfl | rfl | rfl := mode_cases hm
  · rw [if_pos rfl, rounded_nearest, if_neg hpos.ne', add_half_div hpos, Nat.add_mul]
    split <;> simp
  · rw [if_neg (by decide), if_neg (by decide)]
    obtain h | h := rounded_either (mode := 1#2) (n := n) (v := c.toNat) (stoch := stoch) <;> rw [h]
    · exact .inl rfl
    · exact .inr (by rw [Nat.add_mul, Nat.one_mul])
  · rw [if_neg (by decide), if_pos rfl, rounded_towardZero]

/-! ## Integer results (R180, R181) -/

/-- The largest magnitudes of the two texts agree, and fit into 16 bits. -/
theorem maxMagnitude_eq_roundBound {mod1 : BitVec 3} (h : 2#3 ≤ mod1) :
    maxMagnitude mod1 = roundBound mod1 ∧ roundBound mod1 < 2 ^ 16 := by
  revert mod1; decide

/-- The fields of an integer result. -/
theorem fields_rndResult {s : Bool} {mag : ℕ} (h : mag < 2 ^ 31) (sign : Bool) :
    signOf (rndResult s mag sign) = (if mag = 0 then s && sign else s) ∧
      (magOf (rndResult s mag sign)).toNat = mag := by
  obtain ⟨hs, hm⟩ := fields_mkSm (if mag = 0 then s && sign else s) (BitVec.ofNat 31 mag)
  exact ⟨hs, by rw [rndResult, hm, BitVec.toNat_ofNat, Nat.mod_eq_of_lt h]⟩

/-- The sign of a result that is not zero is that of the source, in the signed modes (R180, R181, log entry 22). -/
theorem roundSign_rndResult {mod1 : BitVec 3} {c : Word} {s : Bool} {mag : ℕ} (hs : s = (mod1.getLsbD 0 && signOf c))
    (h : mag < 2 ^ 31) (sign : Bool) : RoundSign mod1 c (rndResult s mag sign) := by
  obtain ⟨hsign, hmag⟩ := fields_rndResult (s := s) h sign
  have hpos (h0 : s = false) : (rndResult s mag sign).getLsbD 31 = false := by
    change signOf _ = false
    rw [hsign, h0, Bool.false_and, ite_self]
  unfold RoundSign
  split
  case isTrue hu => exact hpos (by rw [hs, hu, Bool.false_and])
  case isFalse hu =>
    split
    case isTrue hc => exact hpos (by rw [hs, show signOf c = false from hc, Bool.and_false])
    case isFalse hc =>
      intro hr
      have h0 : mag ≠ 0 := fun h0 => hr (BitVec.eq_of_toNat_eq (hmag.trans h0))
      have hc : signOf c = true := Bool.eq_true_of_not_eq_false hc
      have hneg : s = true := by rw [hs, Bool.eq_true_of_not_eq_false hu, hc]; rfl
      exact hsign.trans ((if_neg h0).trans hneg)

/-- A magnitude after the bound (R180, R181). -/
theorem mag_rndResult_min (s : Bool) (m : ℕ) {bound : ℕ} (h : bound < 2 ^ 16) (sign : Bool) :
    ((rndResult s (min m bound) sign).extractLsb' 0 31).toNat = min m bound :=
  (fields_rndResult (by omega) sign).2

/-! ## Flavor C: an integer shifted right (R181) -/

theorem roundsInt_rndInt {mod1 : BitVec 3} {mode : BitVec 2} (hm : mode ≠ 3#2) (h45 : mod1 = 4#3 ∨ mod1 = 5#3)
    (c : Word) (sh : ℕ) (prng : Word) (sign : Bool) :
    RoundsInt mod1 mode c sh (rndInt mod1 mode c sh prng sign) := by
  have h2 : 2#3 ≤ mod1 := by rcases h45 with rfl | rfl <;> decide
  obtain ⟨hbound, h16⟩ := maxMagnitude_eq_roundBound h2
  have hs : (mod1 = 5#3 && signOf c) = (mod1.getLsbD 0 && signOf c) := by rcases h45 with rfl | rfl <;> rfl
  have hr : rndInt mod1 mode c sh prng sign = rndResult (mod1 = 5#3 && signOf c)
      (min (rounded mode sh (magOf c).toNat (Config.stochRndUp mod1 c sh prng)) (roundBound mod1)) sign := by
    rw [← hbound]; rfl
  rw [hr]
  refine ⟨roundSign_rndResult hs (by omega) sign, ?_⟩
  rw [mag_rndResult_min _ _ h16, show c.extractLsb' 0 31 = magOf c from rfl]
  generalize Config.stochRndUp mod1 c sh prng = stoch
  obtain rfl | rfl | rfl := mode_cases hm
  · rw [if_pos rfl, rounded_nearest]
  · rw [if_neg (by decide), if_neg (by decide)]
    exact rounded_either.imp (fun h => by rw [h]) fun h => by rw [h]
  · rw [if_neg (by decide), if_pos rfl, rounded_towardZero]

/-! ## Flavor B: a float to an integer (R180) -/

theorem abs_fpValue (c : Word) : |fpValue c| = (magUnits (magOf c).toNat : ℚ) / 2 ^ 149 := by
  rw [fpValue_eq_signedUnits, abs_signedUnits]

/-- Below exponent 126 a number is less than a half, from exponent 143 on at least 2^16. -/
theorem abs_fpValue_bounds (c : Word) : ((expOf c).toNat < 126 ↔ |fpValue c| < 1 / 2) ∧
    (143 ≤ (expOf c).toNat → 2 ^ 16 ≤ |fpValue c|) := by
  have hman := (manOf c).isLt
  have hmag := magOf_eq c
  have hstep (e : ℕ) : magUnits ((e + 1) * 2 ^ 23) = 2 ^ (23 + e) := by
    rw [Nat.add_mul, Nat.one_mul, magUnits_normal le_rfl (by norm_num), pow_add]
  rw [abs_fpValue]
  refine ⟨?_, fun h => ?_⟩
  · rw [div_lt_iff₀ (by positivity)]
    have hhalf : (1 / 2 * 2 ^ 149 : ℚ) = ((2 ^ (23 + 125) : ℕ) : ℚ) := by norm_num
    rw [hhalf, Nat.cast_lt, ← hstep, magUnits_strictMono.lt_iff_lt]
    omega
  · have hlow : magUnits ((142 + 1) * 2 ^ 23) ≤ magUnits (magOf c).toNat := magUnits_strictMono.monotone (by omega)
    rw [hstep] at hlow
    rw [le_div_iff₀ (by positivity), ← pow_add]
    exact_mod_cast hlow

/-- A normal number as its significand over a power of two. -/
theorem abs_fpValue_eq_sig_div {c : Word} (h0 : expOf c ≠ 0#8) (h : (expOf c).toNat ≤ 150) :
    |fpValue c| = ((sig c : ℕ) : ℚ) / ((2 ^ (150 - (expOf c).toNat) : ℕ) : ℚ) := by
  obtain ⟨h1, h2⟩ := sig_bounds c
  have he := expOf_pos h0
  have hmag : (magOf c).toNat = ((expOf c).toNat - 1) * 2 ^ 23 + sig c := by
    rw [magOf_eq, sig]; omega
  have hscale : 2 ^ ((expOf c).toNat - 1) * 2 ^ (150 - (expOf c).toNat) = 2 ^ 149 := by
    rw [← pow_add]; congr 1; omega
  rw [abs_fpValue, hmag, magUnits_normal h1 h2.le, div_eq_div_iff (by positivity) (by positivity), ← Nat.cast_mul,
    Nat.mul_assoc, hscale, Nat.cast_mul, Nat.cast_pow, Nat.cast_ofNat]

/-- A quotient by a power of two, rounded to the nearest integer. -/
theorem floor_div_add_half (v : ℕ) {n : ℕ} (h : 0 < n) :
    ⌊(v : ℚ) / ((2 ^ n : ℕ) : ℚ) + 1 / 2⌋₊ = (v + 2 ^ (n - 1)) / 2 ^ n := by
  have hp : 2 ^ n = 2 * 2 ^ (n - 1) := by rw [← pow_succ', Nat.sub_add_cancel h]
  have hsum : (v : ℚ) / ((2 ^ n : ℕ) : ℚ) + 1 / 2 = ((v + 2 ^ (n - 1) : ℕ) : ℚ) / ((2 ^ n : ℕ) : ℚ) := by
    rw [hp]; push_cast; field_simp
  rw [hsum, Nat.floor_div_eq_div]

/-- The magnitude of a float as a rounded integer: beyond the bounds from exponent 143 on, 0 below a half (R180). -/
def floatMagnitude (bound : ℕ) (mode : BitVec 2) (c : Word) (stoch : Bool) : ℕ :=
  if 143 ≤ (expOf c).toNat then bound
  else if (expOf c).toNat < 126 then 0
  else min (rounded mode (150 - (expOf c).toNat) (sig c) stoch) bound

theorem rndFloatToInt_eq {mod1 : BitVec 3} (h : mod1 = 2#3 ∨ mod1 = 3#3 ∨ mod1 = 6#3 ∨ mod1 = 7#3) (mode : BitVec 2)
    (c prng : Word) (sign : Bool) : rndFloatToInt mod1 mode c prng sign = rndResult (mod1.getLsbD 0 && signOf c)
      (floatMagnitude (roundBound mod1) mode c (Config.stochRndUp mod1 c (150 - (expOf c).toNat) prng)) sign := by
  have h2 : 2#3 ≤ mod1 := by rcases h with rfl | rfl | rfl | rfl <;> decide
  have hs : (decide (mod1 = 3#3 ∨ mod1 = 7#3) && signOf c) = (mod1.getLsbD 0 && signOf c) := by
    rcases h with rfl | rfl | rfl | rfl <;> rfl
  have h143 : expOf c ≥ 143#8 ↔ 143 ≤ (expOf c).toNat := BitVec.le_def
  have h126 : expOf c < 126#8 ↔ (expOf c).toNat < 126 := BitVec.lt_def
  simp only [rndFloatToInt, floatMagnitude, rounded, hs, maxMagnitude_eq_roundBound h2, h143, h126]
  rw [apply_ite (rndResult _ · sign), apply_ite (rndResult _ · sign)]

section FloatMagnitude

variable {bound : ℕ} {mode : BitVec 2} {c : Word} {stoch : Bool}

theorem floatMagnitude_le : floatMagnitude bound mode c stoch ≤ bound := by
  unfold floatMagnitude
  split_ifs <;> omega

/-- Beyond the bounds every rounding gives the bound. -/
theorem min_floor_of_le (hb : bound < 2 ^ 16) {x : ℚ} (h : 2 ^ 16 ≤ x) : min ⌊x⌋₊ bound = bound := by
  have : 2 ^ 16 ≤ ⌊x⌋₊ := Nat.le_floor (by exact_mod_cast h)
  omega

theorem floatMagnitude_nearest (hb : bound < 2 ^ 16) :
    floatMagnitude bound 0#2 c stoch = min ⌊|fpValue c| + 1 / 2⌋₊ bound := by
  obtain ⟨hhalf, hbig⟩ := abs_fpValue_bounds c
  unfold floatMagnitude
  split_ifs with h143 h126
  · rw [min_floor_of_le hb ((hbig h143).trans (by linarith))]
  · rw [Nat.floor_eq_zero.2 (by linarith [hhalf.1 h126]), Nat.zero_min]
  · have h0 : expOf c ≠ 0#8 := fun h0 => h126 (by rw [h0]; decide)
    have hn : 0 < 150 - (expOf c).toNat := by omega
    rw [abs_fpValue_eq_sig_div h0 (by omega), floor_div_add_half _ hn, rounded_nearest, if_neg hn.ne']

/-- Each rounding gives the integer below or the next one; below a half, 0. -/
theorem floatMagnitude_either (hb : bound < 2 ^ 16) :
    (floatMagnitude bound mode c stoch = min ⌊|fpValue c|⌋₊ bound ∨
      mode ≠ 2#2 ∧ floatMagnitude bound mode c stoch = min (⌊|fpValue c|⌋₊ + 1) bound) ∧
    (|fpValue c| < 1 / 2 → floatMagnitude bound mode c stoch = 0) := by
  obtain ⟨hhalf, hbig⟩ := abs_fpValue_bounds c
  rw [← hhalf]
  unfold floatMagnitude
  split_ifs with h143 h126
  · exact ⟨.inl (min_floor_of_le hb (hbig h143)).symm, fun h => by omega⟩
  · rw [Nat.floor_eq_zero.2 (by linarith [hhalf.1 h126]), Nat.zero_min]
    exact ⟨.inl rfl, fun _ => rfl⟩
  · have h0 : expOf c ≠ 0#8 := fun h0 => h126 (by rw [h0]; decide)
    rw [abs_fpValue_eq_sig_div h0 (by omega), Nat.floor_div_eq_div]
    refine ⟨?_, fun h => absurd h h126⟩
    by_cases h2 : mode = 2#2
    · subst h2; exact .inl (by rw [rounded_towardZero])
    · exact rounded_either.imp (fun h => by rw [h]) fun h => ⟨h2, by rw [h]⟩

end FloatMagnitude

theorem roundsToInt_rndFloatToInt {mod1 : BitVec 3} {mode : BitVec 2} (hm : mode ≠ 3#2)
    (h : mod1 = 2#3 ∨ mod1 = 3#3 ∨ mod1 = 6#3 ∨ mod1 = 7#3) (c prng : Word) (sign : Bool) :
    RoundsToInt mod1 mode c (rndFloatToInt mod1 mode c prng sign) := by
  have h2 : 2#3 ≤ mod1 := by rcases h with rfl | rfl | rfl | rfl <;> decide
  obtain ⟨-, h16⟩ := maxMagnitude_eq_roundBound h2
  rw [rndFloatToInt_eq h]
  generalize Config.stochRndUp mod1 c (150 - (expOf c).toNat) prng = stoch
  have hle : floatMagnitude (roundBound mod1) mode c stoch < 2 ^ 31 := floatMagnitude_le.trans_lt (by omega)
  refine ⟨roundSign_rndResult rfl hle sign, ?_⟩
  rw [show ((rndResult _ _ sign).extractLsb' 0 31).toNat = _ from (fields_rndResult hle sign).2]
  split
  case isTrue h255 =>
    have h143 : 143 ≤ (expOf c).toNat := by rw [show expOf c = 255#8 from h255]; decide
    exact if_pos h143
  case isFalse =>
    obtain rfl | rfl | rfl := mode_cases hm
    · rw [if_pos rfl, floatMagnitude_nearest h16]
    · rw [if_neg (by decide), if_neg (by decide)]
      obtain ⟨hone, hzero⟩ := floatMagnitude_either (mode := 1#2) (c := c) (stoch := stoch) h16
      exact ⟨hone.imp_right fun h => h.2, hzero⟩
    · rw [if_neg (by decide), if_pos rfl]
      exact (floatMagnitude_either h16).1.resolve_right fun h => h.1 rfl

/-! ## SFPSTOCHRND (R178) -/

theorem formError_sfpstochrnd {mode : BitVec 2} {imm5 : BitVec 5} {vb vc vd : Reg} {mod1 : BitVec 3} {u : BitVec 1} :
    formError (.sfpstochrnd mode imm5 vb vc vd mod1 u) = none ↔
      mode ≠ 3#2 ∧ (mod1 = 4#3 ∨ mod1 = 5#3 ∨ imm5 = 0#5 ∧ u = 0#1) := by
  simp [formError, require_eq_none]

theorem exec_sfpstochrnd_of_mayIssue {mode : BitVec 2} {imm5 : BitVec 5} {vb vc vd : Reg} {mod1 : BitVec 3}
    {u : BitVec 1} {s : State} (hm : mode ≠ 3#2) (hop : mod1 = 4#3 ∨ mod1 = 5#3 ∨ imm5 = 0#5 ∧ u = 0#1)
    (hissue : MayIssue s []) : ∃ t, exec (.sfpstochrnd mode imm5 vb vc vd mod1 u) s = .next t ∧
      (∀ l r, t.lreg r l = (s.writeLanes (fun _ => vd) fun l => stochRndLane mod1 mode (s.lreg vc l)
        (rndShift imm5 u (s.lreg vb l)) (s.lane l).prng (Config.drawSign s.pos l.val)).lreg r l) ∧
      t.pending = pendingAfter false vd ∧ t.nopRequired = false :=
  ⟨_, execSfpstochrnd_next.2 ⟨formError_sfpstochrnd.2 ⟨hm, hop⟩, hissue, rfl⟩, lreg_writeLanes_setPrng s _ _ _ _,
    pendingDst_eq_pendingAfter false vd, rfl⟩

/-- The rounding of one lane meets `P`: what each flavor of SFPSTOCHRND says of VD, PRNG and the rest. -/
theorem stochrnd_completes {mode : BitVec 2} {imm5 : BitVec 5} {vb vc vd : Reg} {mod1 : BitVec 3}
    {u : BitVec 1} {s : State} {P : LaneIx → Word → Prop} (hm : mode ≠ 3#2)
    (hop : mod1 = 4#3 ∨ mod1 = 5#3 ∨ imm5 = 0#5 ∧ u = 0#1)
    (hP : ∀ l prng sign, P l (stochRndLane mod1 mode (s.lreg vc l) (rndShift imm5 u (s.lreg vb l)) prng sign)) :
    Completes (.sfpstochrnd mode imm5 vb vc vd mod1 u) s [] fun t =>
      KeepsRegs s t (fun l r => laneEnabled s l = true ∧ r = vd ∧ vd < 8#4) ∧
      (∀ l, laneEnabled s l = true → vd < 8#4 → P l (t.lreg vd l)) ∧
      (mode ≠ 1#2 → KeepsPrng s t) ∧ (∀ l, laneEnabled s l = false → (t.lane l).prng = (s.lane l).prng) ∧
      KeepsFlags s t ∧ KeepsSwitch s t ∧ KeepsStack s t ∧ KeepsStorage s t ∧
      Advances s t (pendingAfter false vd) false := by
  intro hissue
  obtain ⟨t, hexec, hregs, hpending, hnop⟩ :=
    exec_sfpstochrnd_of_mayIssue (vb := vb) (vc := vc) (vd := vd) hm hop hissue
  obtain ⟨-, -, -, -, -, -, -, hprng, hswitch, hstack, hflags⟩ := stateChangesOnlyByItsWriters _ s t hexec
  obtain ⟨hkept, hwritten⟩ := written_of_writeLanes hregs
  refine ⟨t, hexec, hkept, fun l hl hvd => ?written, hprng, fun l hl => ?disabled, hflags id, hswitch id, hstack id,
    keepsStorage_of_exec hexec id id id, (exec_effect hexec).pos, hpending, hnop⟩
  case written => rw [hwritten l hl hvd]; exact hP ..
  case disabled => rw [(disabledLanesKeepTheirState _ s t l hexec hl).1 id]

/-- SFPSTOCHRND by its flavor (R178). -/
theorem stochRndLane_flavors (mod1 : BitVec 3) (mode : BitVec 2) (c : Word) (sh : ℕ) (prng : Word) (sign : Bool) :
    (mod1 = 0#3 ∨ mod1 = 1#3 → stochRndLane mod1 mode c sh prng sign = rndFloat mod1 mode c prng) ∧
    (2#3 ≤ mod1 → stochRndLane mod1 mode c sh prng sign = if mod1 = 4#3 ∨ mod1 = 5#3
      then rndInt mod1 mode c sh prng sign else rndFloatToInt mod1 mode c prng sign) := by
  refine ⟨fun h => if_pos h, fun h => if_neg ?_⟩
  revert mod1; decide

/-- The modes of flavor B. -/
theorem flavorB_modes {mod1 : BitVec 3} (h2 : 2#3 ≤ mod1) (hC : ¬(mod1 = 4#3 ∨ mod1 = 5#3)) :
    mod1 = 2#3 ∨ mod1 = 3#3 ∨ mod1 = 6#3 ∨ mod1 = 7#3 := by
  revert mod1; decide

theorem rndShift_eq (imm5 : BitVec 5) (u : BitVec 1) (b : Word) :
    rndShift imm5 u b = if u = 1#1 then imm5.toNat else (b.extractLsb' 0 5).toNat := by
  simp [rndShift, BitVec.extractLsb'_toNat]

/-- Settles O49: flavor A in every lane. -/
theorem roundToShorterFloat : Obligations.RoundToShorterFloat := by
  refine fun mode vb vc vd mod1 s hm hA => stochrnd_completes hm (.inr (.inr ⟨rfl, rfl⟩)) fun l prng sign => ?_
  rw [(stochRndLane_flavors ..).1 hA]
  exact roundsFloat_rndFloat hm ..

/-- Settles O50: flavor C in modes 4 and 5, flavor B in the others. -/
theorem roundToBoundedInteger : Obligations.RoundToBoundedInteger := by
  refine fun mode imm5 vb vc vd mod1 u s hm h2 hop => stochrnd_completes hm hop (P := fun l r =>
    if mod1 = 4#3 ∨ mod1 = 5#3 then RoundsInt mod1 mode (s.lreg vc l) _ r else RoundsToInt mod1 mode (s.lreg vc l) r)
    fun l prng sign => ?_
  rw [(stochRndLane_flavors ..).2 h2, rndShift_eq]
  split
  case isTrue hC => exact roundsInt_rndInt hm hC ..
  case isFalse hC => exact roundsToInt_rndFloatToInt hm (flavorB_modes h2 hC) ..

/-! ## SFPARECIP (R183, R184) -/

theorem formError_sfparecip {vb vc vd : Reg} {mod1 : Mode} :
    formError (.sfparecip vb vc vd mod1) = none ↔ mod1 < 3#4 :=
  require_eq_none.trans decide_eq_true_iff

/-- The word of SFPARECIP: the approximations take the magnitude of VC (R183). -/
theorem arecipValue_eq (mod1 : Mode) (c b : Word) : arecipValue mod1 c b =
    if mod1 = 0#4 then c.extractLsb' 31 1 ++ (approxRecip (0#1 ++ c.extractLsb' 0 31)).extractLsb' 0 31
    else if mod1 = 1#4 then if b.toInt < 0 then approxRecip (0#1 ++ c.extractLsb' 0 31) else c
    else c.extractLsb' 31 1 ++ (approxExp (0#1 ++ c.extractLsb' 0 31)).extractLsb' 0 31 := by
  have ha : c &&& 0x7FFFFFFF#32 = 0#1 ++ c.extractLsb' 0 31 := and_mag c
  rw [arecipValue, ha, mkSm_signOf, mkSm_signOf, if_congr isNeg_iff_toInt_neg rfl rfl]
  rfl

/-- Settles O51: the model's own approximations have the laws, whatever the free functions are. -/
theorem reciprocalAndExponential : Obligations.ReciprocalAndExponential :=
  ⟨approxRecip, approxExp, fun _ hs h1 h2 => approxRecip_law hs h1 h2, approxRecip_one, fun _ hx => approxExp_law hx,
    fun _ _ _ _ _ hm => laneResult_of_lanewise rfl (formError_sfparecip.2 hm) fun _ => (arecipValue_eq ..).symm⟩

end Sys2Proof.Machine

/-! # Move, immediate, configuration, no-operation (`45_move_config.md` R200 to R211) -/

namespace Sys2Proof.Machine

/-! ## SFPNOP, and the two mnemonics without semantics (R209 to R211) -/

/-- Settles O17: neither meaning looks at its operands or at the state. -/
theorem undescribedInstructionsAreRefused : Obligations.UndescribedInstructionsAreRefused :=
  ⟨fun _ _ _ _ => rfl, fun _ _ _ _ _ => rfl⟩

/-- Settles O55: SFPNOP retires, and does no more. -/
theorem nopOnlyAdvances : Obligations.NopOnlyAdvances := fun _ => rfl

/-! ## SFPLOADI (R202, R203) -/

theorem formError_sfploadi {vd : Reg} {mod0 : Mode} {imm16 : BitVec 16} :
    formError (.sfploadi vd mod0 imm16) = none ↔ mod0 ∈ [0#4, 1#4, 2#4, 4#4, 8#4, 10#4] ∧ vd < 8#4 := by
  simp [formError, require_eq_none]

/-- The FP16 immediate field by field, its edges as the free function has them (R203). -/
theorem fp16ImmToFp32_eq (imm16 : BitVec 16) : fp16ImmToFp32 imm16 =
    if imm16.extractLsb' 10 5 = 0#5 ∨ imm16.extractLsb' 10 5 = 31#5 then Config.fp16ImmEdge imm16
    else imm16.extractLsb' 15 1 ++ ((imm16.extractLsb' 10 5).zeroExtend 8 + 112#8) ++ imm16.extractLsb' 0 10 ++
      0#13 := by
  rw [fp16ImmToFp32, rebias, mkFp_append, extract_one]

/-- The unsigned immediate is padded with zeros. -/
theorem zeroExtend_imm16 (imm16 : BitVec 16) : imm16.zeroExtend 32 = 0#16 ++ imm16 :=
  BitVec.setWidth_eq_append (by omega)

/-- The six forms of SFPLOADI (R202). -/
theorem loadiValue_forms (imm16 : BitVec 16) (old : Word) :
    loadiValue 0#4 imm16 old = imm16 ++ 0#16 ∧ loadiValue 1#4 imm16 old = fp16ImmToFp32 imm16 ∧
      loadiValue 2#4 imm16 old = 0#16 ++ imm16 ∧ loadiValue 4#4 imm16 old = BitVec.ofInt 32 imm16.toInt ∧
      loadiValue 8#4 imm16 old = imm16 ++ old.extractLsb' 0 16 ∧
      loadiValue 10#4 imm16 old = old.extractLsb' 16 16 ++ imm16 :=
  ⟨rfl, rfl, zeroExtend_imm16 imm16, rfl, rfl, rfl⟩

/-- Settles O53: in each form the lane gets `loadiValue`, the free edge function being the model's own. -/
theorem loadImmediateForms : Obligations.LoadImmediateForms := by
  refine ⟨Config.fp16ImmEdge, fun vd mod0 imm16 s hvd hm => ?_⟩
  refine laneResult_of_lanewise rfl (formError_sfploadi.2 ⟨hm, hvd⟩) fun l => ?_
  obtain ⟨hbf16, hfp16, hunsigned, hsigned, hupper, hlower⟩ := loadiValue_forms imm16 (s.lreg vd l)
  simp only [List.mem_cons, List.not_mem_nil, or_false] at hm
  rcases hm with rfl | rfl | rfl | rfl | rfl | rfl
  · exact hbf16.symm
  · exact (hfp16.trans (fp16ImmToFp32_eq imm16)).symm
  · exact hunsigned.symm
  · exact hsigned.symm
  · exact hupper.symm
  · exact hlower.symm

/-! ## The PRNG (R27) -/

/-- Of the 32 bit places the four taps count. -/
theorem countP_prngTaps (w : Word) :
    (List.range Config.prngBits).countP (fun i => (w &&& Config.prngTaps).getLsbD i) =
      [0, 1, 21, 31].countP fun i => w.getLsbD i := by
  have htaps : (List.range Config.prngBits).filter (fun i => Config.prngTaps.getLsbD i) = [0, 1, 21, 31] := by decide
  rw [← htaps, List.countP_filter]
  simp only [BitVec.getLsbD_and]

/-- Four bits are even in number where their sum modulo 2 is 0. -/
theorem countP_taps_even (w : Word) : ([0, 1, 21, 31].countP fun i => w.getLsbD i) % 2 = 0 ↔
    (!(w.getLsbD 31 ^^ w.getLsbD 21 ^^ w.getLsbD 1 ^^ w.getLsbD 0)) = true := by
  simp only [List.countP_cons, List.countP_nil]
  generalize w.getLsbD 31 = a, w.getLsbD 21 = b, w.getLsbD 1 = c, w.getLsbD 0 = d
  revert a b c d; decide

/-- A bit above the upper 31 bits of a word. -/
theorem topBit_or_shiftRight (b : Bool) (w : Word) :
    (if b then 0x80000000#32 else 0#32) ||| w >>> 1 = BitVec.cons b (w.extractLsb' 1 31) := by
  have htop : (if b then 0x80000000#32 else 0#32) = BitVec.ofBool b ++ 0#31 := by revert b; decide
  have hlow : w >>> 1 = 0#1 ++ w.extractLsb' 1 31 := BitVec.ushiftRight_eq_extractLsb'_of_lt (by omega)
  rw [htop, hlow, BitVec.or_append, BitVec.or_zero, BitVec.zero_or]
  rfl

/-- `AdvancePRNG` sets bit 31 where the taps hold an even number of ones, and shifts the rest (R27). -/
theorem advancePrng_eq_nextPrng (w : Word) : advancePrng w = nextPrng w := by
  rw [advancePrng, nextPrng, countP_prngTaps, if_congr (countP_taps_even w) rfl rfl, topBit_or_shiftRight]

/-! ## SFPMOV (R200, R201) -/

theorem formError_sfpmov {vc vd : Reg} {mod1 : Mode} :
    formError (.sfpmov vc vd mod1) = none ↔ mod1 < 3#4 ∨ mod1 = 8#4 ∨ mod1 = 9#4 := by
  refine require_eq_none.trans ?_
  revert mod1; decide

/-- The special sources one by one (R201). -/
theorem specialSource_eq_specialWord (lane : Lane) (vc : Reg) : specialSource lane vc = specialWord lane vc := by
  obtain ⟨⟨n, hn⟩⟩ := vc
  interval_cases n <;> rfl

/-- The moved word: bit 3 of Mod1 selects the source, bit 0 flips the sign. -/
theorem movValue_eq_signFlip (s : State) (vc : Reg) (mod1 : Mode) (l : LaneIx) : movValue s vc mod1 l =
    signFlip (mod1.getLsbD 0) (if mod1.getLsbD 3 then specialWord (s.lane l) vc else s.lreg vc l) := by
  rw [← negIf_eq_signFlip, ← specialSource_eq_specialWord]; rfl

/-- A masked write keeps the PRNG of every lane. -/
theorem prng_writeLanesIf (s : State) (en : LaneIx → Bool) (dst : LaneIx → Reg) (val : LaneIx → Word) (l : LaneIx) :
    ((s.writeLanesIf en dst val).lane l).prng = (s.lane l).prng := by
  rw [State.writeLanesIf_lane]
  split
  · exact Lane.write_prng ..
  · rfl

/-- The lanes that SFPMOV writes. -/
def movLanes (s : State) (mod1 : Mode) (l : LaneIx) : Bool := laneEnabled s l || mod1 == 2#4

/-- Where it may issue, an admitted SFPMOV writes `movValue` to VD, and moves the PRNG of the enabled lanes where its
source is the PRNG. -/
theorem exec_sfpmov_of_mayIssue {vc vd : Reg} {mod1 : Mode} {s : State}
    (hm : mod1 < 3#4 ∨ mod1 = 8#4 ∨ mod1 = 9#4) (hissue : MayIssue s []) :
    ∃ t, exec (.sfpmov vc vd mod1) s = .next t ∧
      (∀ l r, t.lreg r l = (s.writeLanesIf (movLanes s mod1) (fun _ => vd) (movValue s vc mod1)).lreg r l) ∧
      (mod1.getLsbD 3 = true → ∀ l, (t.lane l).prng =
        if vc = 9#4 ∧ laneEnabled s l = true then nextPrng (s.lane l).prng else (s.lane l).prng) ∧
      t.pending = [] ∧ t.nopRequired = false := by
  refine ⟨_, execSfpmov_next.2 ⟨formError_sfpmov.2 hm, hissue, rfl⟩, fun l r => ?regs, fun h3 l => ?prng, rfl, rfl⟩
  case regs =>
    rw [State.retire_lreg]
    split
    · exact State.lreg_setPrng ..
    · rfl
  case prng =>
    rw [State.retire_lane, show bit mod1 3 = true from h3, Bool.true_and]
    by_cases h9 : vc = 9#4
    · rw [if_pos (decide_eq_true h9), State.setPrng_lane, laneEnabled_writeLanesIf, ← advancePrng_eq_nextPrng]
      by_cases hl : laneEnabled s l = true
      · rw [if_pos hl, if_pos ⟨h9, hl⟩]
      · rw [if_neg hl, if_neg fun h => hl h.2, prng_writeLanesIf]
    · rw [if_neg (by simp [h9]), if_neg fun h => h9 h.1, prng_writeLanesIf]

/-- A masked write reaches its destination in the lanes picked, and holds there (R16). -/
theorem written_of_writeLanesIf {s t : State} {en : LaneIx → Bool} {dst : LaneIx → Reg} {val : LaneIx → Word}
    (ht : ∀ l r, t.lreg r l = (s.writeLanesIf en dst val).lreg r l) :
    KeepsRegs s t (fun l r => en l = true ∧ r = dst l ∧ dst l < 8#4) ∧ Written t en dst val := by
  refine ⟨fun l r hr => ?_, fun l hl hd => ?_⟩
  · rw [ht, State.lreg_writeLanesIf, if_neg hr]
  · rw [ht, State.lreg_writeLanesIf, if_pos ⟨hl, rfl, hd⟩]

/-- What SFPMOV leaves alone in every mode. -/
theorem sfpmov_frame {vc vd : Reg} {mod1 : Mode} {s t : State} (h : exec (.sfpmov vc vd mod1) s = .next t) :
    KeepsFlags s t ∧ KeepsSwitch s t ∧ KeepsStack s t ∧ KeepsStorage s t ∧ t.pos = s.pos + 1 := by
  obtain ⟨-, -, -, -, -, -, -, -, hswitch, hstack, hflags⟩ := stateChangesOnlyByItsWriters _ s t h
  exact ⟨hflags id, hswitch id, hstack id, keepsStorage_of_exec h id id id, (exec_effect h).pos⟩

/-- The bits of Mod1 where SFPMOV reads a register. -/
theorem mov_register_modes {mod1 : Mode} (h : mod1 < 3#4) :
    mod1.getLsbD 3 = false ∧ mod1.getLsbD 0 = (mod1 == 1#4) := by
  revert mod1; decide

/-- The bits of Mod1 where SFPMOV reads a special source; mode 2, which ignores predication, is none of these. -/
theorem mov_special_modes {mod1 : Mode} (h : mod1 = 8#4 ∨ mod1 = 9#4) :
    mod1.getLsbD 3 = true ∧ mod1.getLsbD 0 = (mod1 == 9#4) ∧ (mod1 == 2#4) = false := by
  revert mod1; decide

/-- Settles O52: modes 0 to 2 move a register and keep the PRNG, of which they are no writers; modes 8 and 9 move a
special source in the enabled lanes. -/
theorem moveCopiesRegistersAndSpecials : Obligations.MoveCopiesRegistersAndSpecials := by
  refine ⟨fun vc vd mod1 s hm hissue => ?registers, fun vc vd mod1 s hm hissue => ?specials⟩
  case registers =>
    obtain ⟨t, hexec, hregs, -, hpending, hnop⟩ := exec_sfpmov_of_mayIssue (vc := vc) (vd := vd) (.inl hm) hissue
    obtain ⟨hflags, hswitch, hstack, hstorage, hpos⟩ := sfpmov_frame hexec
    obtain ⟨-, -, -, -, -, -, -, hprng, -⟩ := stateChangesOnlyByItsWriters _ s t hexec
    obtain ⟨h3, h0⟩ := mov_register_modes hm
    have hvalue : movValue s vc mod1 = fun l => signFlip (mod1 == 1#4) (s.lreg vc l) := by
      funext l; rw [movValue_eq_signFlip, h3, h0]; rfl
    have hnoPrng : ¬writesPrng (.sfpmov vc vd mod1) := fun hw => Bool.false_ne_true (h3.symm.trans hw.1)
    rw [hvalue] at hregs
    obtain ⟨hkept, hwritten⟩ := written_of_writeLanesIf hregs
    exact ⟨t, hexec, ⟨hkept, hflags, hswitch, hstack, hprng hnoPrng, hstorage⟩, hwritten, hpos, hpending, hnop⟩
  case specials =>
    obtain ⟨t, hexec, hregs, hprng, hpending, hnop⟩ := exec_sfpmov_of_mayIssue (vc := vc) (vd := vd) (.inr hm) hissue
    obtain ⟨hflags, hswitch, hstack, hstorage, hpos⟩ := sfpmov_frame hexec
    obtain ⟨h3, h0, h2⟩ := mov_special_modes hm
    have hvalue : movValue s vc mod1 = fun l => signFlip (mod1 == 9#4) (specialWord (s.lane l) vc) := by
      funext l; rw [movValue_eq_signFlip, h3, h0]; rfl
    have hlanes : movLanes s mod1 = laneEnabled s := by
      funext l; rw [movLanes, h2, Bool.or_false]
    rw [hvalue, hlanes] at hregs
    obtain ⟨hkept, hwritten⟩ := written_of_writeLanesIf hregs
    exact ⟨t, hexec, hkept, hwritten, hprng h3, hflags, hswitch, hstack, hstorage, hpos, hpending, hnop⟩


/-! ## SFPCONFIG: admission and value (R205 to R207) -/

theorem formError_sfpconfig {imm16 : BitVec 16} {vd : Reg} {mod1 : Mode} :
    formError (.sfpconfig imm16 vd mod1) = none ↔ (vd ≠ 9#4 ∧ vd ≠ 10#4) ∧ mod1 < 6#4 := by
  have hmode : mod1 &&& 8 = 0 ∧ mod1 &&& 6 ≠ 6 ↔ mod1 < 6#4 := by revert mod1; decide
  simp [formError, require_eq_none, ← hmode]

/-- The immediate or constant counts under bit 0 of Mod1, for VD 4 to 15 alone (R206). -/
theorem configUsesImm_iff {vd : Reg} {mod1 : Mode} :
    configUsesImm vd mod1 = true ↔ mod1.getLsbD 0 = true ∧ 4#4 ≤ vd := by
  simp [configUsesImm, bit]

/-- The constants of VD 11 to 14, and the immediate elsewhere (R206). -/
theorem configValue_eq_configSource (imm16 : BitVec 16) (vd : Reg) (mod1 : Mode) (s : State) (l : LaneIx) :
    configValue imm16 vd mod1 s l = configSource imm16 vd mod1 s l := by
  rw [configValue, configSource, if_congr configUsesImm_iff rfl rfl, zeroExtend_imm16]
  obtain ⟨⟨n, hn⟩⟩ := vd
  interval_cases n <;> rfl

/-! ## SFPCONFIG: its destination in one lane (R205) -/

/-- The destinations in the order in which `configLane` tells them apart. -/
theorem configDest_eq (lane : Lane) (vd : Reg) : configDest lane vd =
    if h : vd.toNat < 4 then lane.lmc.template[vd.toNat]
    else if h : vd.toNat - 4 < 4 then lane.lmc.sequence[vd.toNat - 4]
    else if vd.toNat = 8 then lane.lmc.misc.zeroExtend 32
    else if vd.toNat < 11 then 0#32
    else if h : vd.toNat - 11 < Config.nPrg then lane.prg[vd.toNat - 11]
    else lane.laneConfig.zeroExtend 32 := by
  obtain ⟨⟨n, hn⟩⟩ := vd
  interval_cases n <;> rfl

/-- A word cut to its low bits. -/
theorem zeroExtend_extract (w : Word) {n : Nat} (h : n ≤ 32) :
    (w.extractLsb' 0 n).zeroExtend 32 = BitVec.ofNat 32 (2 ^ n - 1) &&& w := by
  apply BitVec.eq_of_toNat_eq
  have hpow : 2 ^ n ≤ 2 ^ 32 := Nat.pow_le_pow_right (by omega) h
  have hmask : (2 ^ n - 1) % 2 ^ 32 = 2 ^ n - 1 := Nat.mod_eq_of_lt (by omega)
  rw [BitVec.toNat_setWidth_of_le h, BitVec.extractLsb'_toNat, BitVec.toNat_and, BitVec.toNat_ofNat, hmask,
    Nat.and_comm, Nat.and_two_pow_sub_one_eq_mod, Nat.shiftRight_zero]

/-- Only `LoadMacroConfig.Misc` and `LaneConfig` are narrower than a word (R205). -/
theorem configMask_and {vd : Reg} (h8 : vd ≠ 8#4) (h15 : vd ≠ 15#4) (w : Word) : configMask vd &&& w = w := by
  rw [configMask, if_neg h8, if_neg h15]
  exact BitVec.allOnes_and

/-- A destination after SFPCONFIG: the combined word, cut to the width of the destination. -/
theorem configDest_configLane_same {vd : Reg} (h9 : vd ≠ 9#4) (h10 : vd ≠ 10#4) (mod1 : Mode) (val : Word)
    (lane : Lane) : configDest (configLane vd mod1 val lane) vd =
      configMask vd &&& configCombine mod1 (configDest lane vd) val := by
  rw [configDest_eq, configDest_eq, configLane]
  split_ifs with h4 h8 hmisc h11 hprg
  case pos => rw [configMask_and (by bv_omega) (by bv_omega)]; exact Vector.getElem_set_self ..
  case pos => rw [configMask_and (by bv_omega) (by bv_omega)]; exact Vector.getElem_set_self ..
  case pos =>
    obtain rfl : vd = 8#4 := BitVec.eq_of_toNat_eq hmisc
    exact zeroExtend_extract _ (by decide)
  case pos => bv_omega
  case pos =>
    have hprg : vd.toNat - 11 < 4 := hprg
    rw [configMask_and (by bv_omega) (by bv_omega)]; exact Vector.getElem_set_self ..
  case neg =>
    have hprg : ¬vd.toNat - 11 < 4 := hprg
    obtain rfl : vd = 15#4 := by bv_omega
    exact zeroExtend_extract _ (by decide)

/-- A destination depends on its own part of the lane alone. -/
theorem configDest_congr {x y : Lane} {v : Reg}
    (htemplate : ∀ h : v.toNat < 4, x.lmc.template[v.toNat] = y.lmc.template[v.toNat] := by intros; rfl)
    (hsequence : ∀ h : v.toNat - 4 < 4, ¬v.toNat < 4 → x.lmc.sequence[v.toNat - 4] = y.lmc.sequence[v.toNat - 4] := by
      intros; rfl)
    (hmisc : v.toNat = 8 → x.lmc.misc = y.lmc.misc := by intros; rfl)
    (hprg : ∀ h : v.toNat - 11 < 4, ¬v.toNat < 11 → x.prg[v.toNat - 11] = y.prg[v.toNat - 11] := by intros; rfl)
    (hconfig : ¬v.toNat - 11 < 4 → x.laneConfig = y.laneConfig := by intros; rfl) :
    configDest x v = configDest y v := by
  rw [configDest_eq, configDest_eq]
  split_ifs with h4 h8 h h11 h15
  · exact htemplate h4
  · exact hsequence h8 h4
  · rw [hmisc h]
  · rfl
  · exact hprg h15 h11
  · rw [hconfig h15]

/-- SFPCONFIG writes the destination that VD selects, and no other. -/
theorem configDest_configLane_other {vd v : Reg} (hne : v ≠ vd) (mod1 : Mode) (val : Word) (lane : Lane) :
    configDest (configLane vd mod1 val lane) v = configDest lane v := by
  have hne : vd.toNat ≠ v.toNat := fun h => hne (BitVec.eq_of_toNat_eq h.symm)
  rw [configLane]
  split_ifs with h4 h8 hm h11 h15
  · exact configDest_congr (htemplate := fun _ => Vector.getElem_set_ne h4 _ hne)
  · exact configDest_congr (hsequence := fun _ _ => Vector.getElem_set_ne h8 _ (by omega))
  · exact configDest_congr (hmisc := fun h => absurd (hm.trans h.symm) hne)
  · rfl
  · exact configDest_congr (hprg := fun _ _ => Vector.getElem_set_ne h15 _ (by omega))
  · have h15 : ¬vd.toNat - 11 < 4 := h15
    exact configDest_congr (hconfig := fun _ => by omega)

/-! ## SFPCONFIG: the registers -/

/-- The programmable constants are the destinations 11 to 14 (R13, R205). -/
theorem Lane.lreg_eq_configDest (lane : Lane) (l : LaneIx) {r : Reg} (h : 11#4 ≤ r ∧ r ≤ 14#4) :
    lane.lreg l r = configDest lane r := by
  have hr : r = 11#4 ∨ r = 12#4 ∨ r = 13#4 ∨ r = 14#4 := by revert r; decide
  rcases hr with rfl | rfl | rfl | rfl <;> rfl

/-- The other registers are general or hard-wired (R11, R12). -/
theorem Lane.lreg_of_gpr_eq {x y : Lane} (l : LaneIx) {r : Reg} (hr : ¬(11#4 ≤ r ∧ r ≤ 14#4)) (h : x.gpr = y.gpr) :
    x.lreg l r = y.lreg l r := by
  rw [Lane.lreg, Lane.lreg, h]
  split_ifs with hgpr h8 h9 h10 hprg
  · rfl
  · rfl
  · rfl
  · rfl
  · have hgpr : ¬r.toNat < 8 := hgpr
    have hprg : r.toNat - 11 < 4 := hprg
    bv_omega
  · rfl

/-- The one register SFPCONFIG may change is a programmable constant that VD selects. -/
theorem lreg_configLane (l : LaneIx) {vd r : Reg} (h : ¬(r = vd ∧ 11#4 ≤ vd ∧ vd ≤ 14#4)) (mod1 : Mode) (val : Word)
    (lane : Lane) : (configLane vd mod1 val lane).lreg l r = lane.lreg l r := by
  by_cases hr : 11#4 ≤ r ∧ r ≤ 14#4
  · have hne : r ≠ vd := by rintro rfl; exact h ⟨rfl, hr⟩
    rw [Lane.lreg_eq_configDest _ l hr, Lane.lreg_eq_configDest _ l hr, configDest_configLane_other hne]
  · exact Lane.lreg_of_gpr_eq l hr (by rw [configLane_eq_withConfig])

/-! ## SFPCONFIG (R205 to R207, R269) -/

/-- What SFPCONFIG leaves alone whatever its destination. -/
theorem sfpconfig_frame {imm16 : BitVec 16} {vd : Reg} {mod1 : Mode} {s t : State}
    (h : exec (.sfpconfig imm16 vd mod1) s = .next t) :
    KeepsFlags s t ∧ KeepsSwitch s t ∧ KeepsStack s t ∧ KeepsPrng s t ∧ KeepsR16 s t ∧
      KeepsDest s t (fun _ => False) ∧ KeepsOutside s t := by
  obtain ⟨hprogram, hthread, hoverlay, hr16, htensix, hdest, -, hprng, hswitch, hstack, hflags⟩ :=
    stateChangesOnlyByItsWriters _ s t h
  exact ⟨hflags id, hswitch id, hstack id, hprng id, hr16, fun k _ => by rw [hdest id], htensix id, hthread, hoverlay,
    hprogram⟩

/-- Where every lane is enabled and it may issue, an admitted SFPCONFIG makes `configLane` of every lane. -/
theorem exec_sfpconfig_of_mayIssue {imm16 : BitVec 16} {vd : Reg} {mod1 : Mode} {s : State}
    (hform : formError (.sfpconfig imm16 vd mod1) = none) (hen : ∀ l, laneEnabled s l = true)
    (hissue : MayIssue s (if mod1.getLsbD 0 = true ∧ 4#4 ≤ vd then [] else [0#4])) :
    ∃ t, exec (.sfpconfig imm16 vd mod1) s = .next t ∧
      (∀ l, t.lane l = configLane vd mod1 (configSource imm16 vd mod1 s l) (s.lane l)) ∧ t.pending = [] := by
  rw [← if_congr configUsesImm_iff rfl rfl] at hissue
  refine ⟨_, execSfpconfig_next.2 ⟨hform, by simp [hen], hissue, rfl⟩, fun l => ?_, rfl⟩
  rw [State.requireNop_lane, State.retire_lane, configState, State.mapLanes_lane, configValue_eq_configSource]

/-- Settles O54: lane by lane, the destination selected holds the combined word and the others are kept. -/
theorem configWritesItsDestinationInAllLanes : Obligations.ConfigWritesItsDestinationInAllLanes := by
  intro imm16 vd mod1 s h9 h10 hm hen hissue
  obtain ⟨t, hexec, hlane, hpending⟩ :=
    exec_sfpconfig_of_mayIssue (formError_sfpconfig.2 ⟨⟨h9, h10⟩, hm⟩) hen hissue
  obtain ⟨hflags, hswitch, hstack, hprng, hr16, hdest, houtside⟩ := sfpconfig_frame hexec
  obtain ⟨hpos, -, hnop⟩ := instructionsAdvanceAndLeavePending _ s t hexec
  refine ⟨t, hexec, fun l => ?same, fun l v hv => ?other, fun l r hr => ?regs, hflags, hswitch, hstack, hprng, hr16,
    hdest, houtside, hpos, hpending, hnop⟩
  case same => rw [hlane, configDest_configLane_same h9 h10]; rfl
  case other => rw [hlane, configDest_configLane_other hv]
  case regs => rw [State.lreg, hlane, lreg_configLane l hr]; rfl

end Sys2Proof.Machine

/-! # Predication (`46_predication.md` R221 to R227) -/

namespace Sys2Proof.Machine

/-! ## What the instructions of predication leave alone -/

/-- The lane `y` is `x` but for its state of predication: the flag, the enable switch and the stack (R20 to R22). -/
def PredicationOnly (x y : Lane) : Prop :=
  ∃ flag switch stack, y = { x with laneFlag := flag, useLaneFlags := switch, flagStack := stack }

theorem predicationOnly_enccLane (imm2 : BitVec 2) (mod1 : Mode) (x : Lane) :
    PredicationOnly x (enccLane imm2 mod1 x) := ⟨_, _, _, rfl⟩

theorem predicationOnly_pushLane (mod1 : Mode) (x : Lane) : PredicationOnly x (pushLane mod1 x) :=
  ⟨_, _, _, pushLane_eq_withFlags mod1 x⟩

theorem predicationOnly_popLane (mod1 : Mode) (x : Lane) : PredicationOnly x (popLane mod1 x) :=
  ⟨_, _, _, popLane_eq_withFlags mod1 x⟩

theorem predicationOnly_compLane (x : Lane) : PredicationOnly x (compLane x) := ⟨_, _, _, rfl⟩

section Frame

variable {s : State} {f : LaneIx → Lane → Lane}

theorem retire_mapLanes_lane (s : State) (f : LaneIx → Lane → Lane) (l : LaneIx) :
    ((s.mapLanes f).retire []).lane l = f l (s.lane l) := by
  rw [State.retire_lane, State.mapLanes_lane]

/-- An update of the state of predication, lane by lane, keeps everything else. -/
theorem keepsData_of_mapLanes (hf : ∀ l, PredicationOnly (s.lane l) (f l (s.lane l))) :
    KeepsData s ((s.mapLanes f).retire []) := by
  have hlane (l : LaneIx) : PredicationOnly (s.lane l) (((s.mapLanes f).retire []).lane l) := by
    rw [retire_mapLanes_lane]
    exact hf l
  refine ⟨fun l r _ => ?regs, fun l => ?prng, ⟨fun l => ?config, fun l => ?lmc, fun l => ?r16, fun k _ => ?dest,
    ?outside⟩, ?advances⟩
  case dest => rw [State.retire_dest, State.mapLanes_dest]
  case outside => simp [KeepsOutside]
  case advances => simp [Advances]
  case regs =>
    obtain ⟨flag, switch, stack, hl⟩ := hlane l
    rw [State.lreg, hl]; rfl
  all_goals
    obtain ⟨flag, switch, stack, hl⟩ := hlane l
    rw [hl]

/-- An instruction that updates the state of predication, lane by lane, completes with those lanes. -/
theorem completes_of_mapLanes {i : Instr} {post : State → Prop}
    (hexec : MayIssue s [] → exec i s = .next ((s.mapLanes f).retire []))
    (hf : ∀ l, PredicationOnly (s.lane l) (f l (s.lane l)))
    (hpost : ∀ t, (∀ l, t.lane l = f l (s.lane l)) → KeepsData s t → post t) : Completes i s [] post :=
  fun hissue => ⟨_, hexec hissue, hpost _ (retire_mapLanes_lane s f) (keepsData_of_mapLanes hf)⟩

end Frame

/-! ## SFPENCC (R221) -/

theorem formError_sfpencc {imm2 : BitVec 2} {vd : Reg} {mod1 : Mode} :
    formError (.sfpencc imm2 vd mod1) = none ↔ mod1.getLsbD 2 = false ∧ vd < 8#4 := by
  have hmode : mod1 &&& 4#4 = 0#4 ↔ mod1.getLsbD 2 = false := by revert mod1; decide
  rw [← hmode]
  simp [formError, require_eq_none]

/-- Settles O56: the enabled lanes get `enccLane`, the others stay. -/
theorem enableConditionCodes : Obligations.EnableConditionCodes := by
  intro imm2 vd mod1 s hvd hm
  refine completes_of_mapLanes (fun hissue => execSfpencc_next.2 ⟨formError_sfpencc.2 ⟨hm, hvd⟩, hissue, rfl⟩)
    (fun l => ?only) fun t hlane hdata => ⟨fun l hl => ?enabled, fun l hl => ?disabled, fun l => ?stack, hdata⟩
  case only =>
    split
    · exact predicationOnly_enccLane ..
    · exact ⟨_, _, _, rfl⟩
  case enabled => rw [hlane, if_pos hl]; exact ⟨rfl, rfl⟩
  case disabled => rw [hlane, if_neg (ne_true_of_eq_false hl)]; exact ⟨rfl, rfl⟩
  case stack => rw [hlane]; split <;> rfl

/-! ## The boolean operations (R225) -/

/-- The twelve operations are the rows of the truth table. -/
theorem booleanOp_eq_opTable {mod1 : Mode} (h1 : 1#4 ≤ mod1) (h12 : mod1 ≤ 12#4) (a b : Bool) :
    booleanOp mod1 a b = opTable mod1 a b := by
  revert mod1 a b; decide

/-! ## SFPPUSHC (R222) -/

section Push

variable {vd : Reg} {mod1 : Mode} {s t : State} {x : Lane} {top : FlagEntry} {rest : List FlagEntry} {l : LaneIx}

theorem formError_sfppushc : formError (.sfppushc vd mod1) = none ↔ mod1 ≠ 15#4 ∧ vd < 8#4 := by
  simp [formError, require_eq_none]

/-- Mod1 0 pushes the current flag and switch. -/
theorem pushLane_zero (x : Lane) :
    pushLane 0#4 x = { x with flagStack := ⟨x.laneFlag, x.useLaneFlags⟩ :: x.flagStack } := rfl

theorem pushLane_useLaneFlags (mod1 : Mode) (x : Lane) : (pushLane mod1 x).useLaneFlags = x.useLaneFlags := by
  rw [pushLane_eq_withFlags]

/-- On a stack with an entry the other modes replace the top, and 13 the flag too. -/
theorem pushLane_cons (h0 : mod1 ≠ 0#4) (hx : x.flagStack = top :: rest) : pushLane mod1 x =
    if mod1 = 13#4 then
      { x with laneFlag := !x.laneFlag, flagStack := ⟨!x.laneFlag, x.useLaneFlags⟩ :: rest }
    else if mod1 = 14#4 then { x with flagStack := ⟨true, true⟩ :: rest }
    else { x with flagStack := ⟨booleanOp mod1 top.laneFlags x.laneFlag, x.useLaneFlags⟩ :: rest } := by
  rw [pushLane, if_neg h0]
  simp only [hx]

/-- The new top of Mod1 1 to 14. -/
theorem pushLane_flagStack_cons (h0 : mod1 ≠ 0#4) (h15 : mod1 ≠ 15#4) (hx : x.flagStack = top :: rest) :
    (pushLane mod1 x).flagStack = (if mod1 = 14#4 then ⟨true, true⟩
      else if mod1 = 13#4 then ⟨!x.laneFlag, x.useLaneFlags⟩
      else ⟨opTable mod1 top.laneFlags x.laneFlag, x.useLaneFlags⟩) :: rest := by
  rw [pushLane_cons h0 hx]
  by_cases h13 : mod1 = 13#4
  · subst h13; rfl
  by_cases h14 : mod1 = 14#4
  · subst h14; rfl
  · rw [if_neg h13, if_neg h14, if_neg h14, if_neg h13, booleanOp_eq_opTable (by bv_omega) (by bv_omega)]

/-- Of the modes that find an entry, 13 alone writes the flag. -/
theorem pushLane_laneFlag (h0 : mod1 ≠ 0#4) (hx : x.flagStack ≠ []) :
    (pushLane mod1 x).laneFlag = if mod1 = 13#4 then !x.laneFlag else x.laneFlag := by
  obtain ⟨top, rest, hx⟩ := List.exists_cons_of_ne_nil hx
  rw [pushLane_cons h0 hx]
  split_ifs <;> rfl

theorem push_overflow_iff : (decide (mod1 = 0#4) && decide (Config.stackDepth ≤ x.flagStack.length)) = false ↔
    (mod1 = 0#4 → x.flagStack.length < 8) := by
  rw [Bool.and_eq_false_imp, decide_eq_true_iff, decide_eq_false_iff_not, Nat.not_le]
  rfl

theorem push_underflow_iff : (decide (mod1 ≠ 0#4) && x.flagStack.isEmpty) = false ↔
    (mod1 ≠ 0#4 → x.flagStack ≠ []) := by
  simp

/-- Where no lane overflows or underflows, SFPPUSHC makes `pushLane` of every lane. -/
theorem exec_sfppushc_of_mayIssue (hvd : vd < 8#4) (h15 : mod1 ≠ 15#4)
    (hover : mod1 = 0#4 → ∀ l : LaneIx, (s.lane l).flagStack.length < 8)
    (hunder : mod1 ≠ 0#4 → ∀ l : LaneIx, (s.lane l).flagStack ≠ []) (hissue : MayIssue s []) :
    exec (.sfppushc vd mod1) s = .next ((s.mapLanes fun _ lane => pushLane mod1 lane).retire []) :=
  execSfppushc_next.2 ⟨formError_sfppushc.2 ⟨h15, hvd⟩, hissue, fun l => push_overflow_iff.2 fun h => hover h l,
    fun l => push_underflow_iff.2 fun h => hunder h l, rfl⟩

theorem lane_of_exec_sfppushc (h : exec (.sfppushc vd mod1) s = .next t) (l : LaneIx) :
    t.lane l = pushLane mod1 (s.lane l) := by
  obtain ⟨-, -, -, -, rfl⟩ := execSfppushc_next.1 h
  exact retire_mapLanes_lane ..

theorem exec_sfppushc_of_full_stack (hvd : vd < 8#4) (hissue : MayIssue s []) (h0 : mod1 = 0#4)
    (hl : 8 ≤ (s.lane l).flagStack.length) (hlow : ∀ k, k < l → (s.lane k).flagStack.length < 8) :
    exec (.sfppushc vd mod1) s = .fault (.flagStackOverflow s.pos l.val) := by
  have h15 : mod1 ≠ 15#4 := by rw [h0]; decide
  change execSfppushc vd mod1 s = _
  rw [execSfppushc, admitted_of_formError_none (formError_sfppushc.2 ⟨h15, hvd⟩), issue_of_mayIssue hissue]
  exact faultIf_of_lowest (Bool.of_not_eq_false (mt push_overflow_iff.1 fun h => Nat.not_lt.2 hl (h h0)))
    fun k hk => push_overflow_iff.2 fun _ => hlow k hk

theorem exec_sfppushc_of_empty_stack (hvd : vd < 8#4) (h15 : mod1 ≠ 15#4) (hissue : MayIssue s []) (h0 : mod1 ≠ 0#4)
    (hl : (s.lane l).flagStack = []) (hlow : ∀ k, k < l → (s.lane k).flagStack ≠ []) :
    exec (.sfppushc vd mod1) s = .fault (.flagStackUnderflow s.pos l.val) := by
  change execSfppushc vd mod1 s = _
  rw [execSfppushc, admitted_of_formError_none (formError_sfppushc.2 ⟨h15, hvd⟩), issue_of_mayIssue hissue,
    faultIf_of_none fun k => push_overflow_iff.2 fun h => absurd h h0]
  exact faultIf_of_lowest (Bool.of_not_eq_false (mt push_underflow_iff.1 fun h => h h0 hl))
    fun k hk => push_underflow_iff.2 fun _ => hlow k hk

end Push

/-- Settles O57: a push, a change of the top, and the two faults, each at the lowest lane. -/
theorem pushSavesOrMutatesTheTop : Obligations.PushSavesOrMutatesTheTop := by
  refine fun vd mod1 s hvd h15 => ⟨fun h0 hroom => ?push, fun h0 hstack => ?mutate, fun l hissue =>
    ⟨fun h0 hl hlow => exec_sfppushc_of_full_stack hvd hissue h0 hl hlow,
      fun h0 hl hlow => exec_sfppushc_of_empty_stack hvd h15 hissue h0 hl hlow⟩⟩
  case push =>
    subst h0
    refine completes_of_mapLanes (exec_sfppushc_of_mayIssue hvd h15 (fun _ => hroom) fun h => absurd rfl h)
      (fun l => predicationOnly_pushLane ..) fun t hlane hdata => ⟨fun l => ?_, fun l => ?_, fun l => ?_, hdata⟩
    all_goals rw [hlane, pushLane_zero]
  case mutate =>
    refine completes_of_mapLanes (exec_sfppushc_of_mayIssue hvd h15 (fun h => absurd h h0) fun _ => hstack)
      (fun l => predicationOnly_pushLane ..)
      fun t hlane hdata => ⟨fun l top rest htop => ?_, fun l => ?_, fun l => ?_, hdata⟩
    · rw [hlane, pushLane_flagStack_cons h0 h15 htop]
    · rw [hlane, pushLane_laneFlag h0 (hstack l)]
    · rw [hlane, pushLane_useLaneFlags]

/-! ## SFPPOPC (R223) -/

section Pop

variable {vd : Reg} {mod1 : Mode} {s t : State} {x : Lane} {top : FlagEntry} {rest : List FlagEntry} {l : LaneIx}

theorem formError_sfppopc : formError (.sfppopc vd mod1) = none ↔ vd < 8#4 := by
  simp [formError, require_eq_none]

/-- Mod1 0 restores what the top holds. -/
theorem popLane_zero (hx : x.flagStack = top :: rest) : popLane 0#4 x =
    { x with laneFlag := top.laneFlags, useLaneFlags := top.useLaneFlags, flagStack := rest } := by
  simp [popLane, hx]

/-- Mod1 1 to 12 combine the flag with that of the top. -/
theorem popLane_laneFlag_cons (h1 : 1#4 ≤ mod1) (h12 : mod1 ≤ 12#4) (hx : x.flagStack = top :: rest) :
    (popLane mod1 x).laneFlag = opTable mod1 top.laneFlags x.laneFlag := by
  have h13 : mod1 ≠ 13#4 := by bv_omega
  have h14 : mod1 ≠ 14#4 := by bv_omega
  have h15 : mod1 ≠ 15#4 := by bv_omega
  have h0 : mod1 ≠ 0#4 := by bv_omega
  rw [popLane, if_neg h13, if_neg h14, if_neg h15, hx]
  simp only [if_neg h0]
  exact booleanOp_eq_opTable h1 h12 ..

/-- The check of the enable switches is that of R223. -/
theorem popMismatch_iff (vd : Reg) : (mod1 ≠ 0#4 && mod1 < 13#4 && (List.finRange Config.nLanes).any fun l =>
      (s.lane l).flagStack.head?.any fun top => top.useLaneFlags ≠ (s.lane l).useLaneFlags) = true ↔
    StateRefused (.sfppopc vd mod1) s := by
  have hmode : mod1 ≠ 0#4 ∧ mod1 < 13#4 ↔ 1#4 ≤ mod1 ∧ mod1 ≤ 12#4 := by revert mod1; decide
  simp only [Bool.and_eq_true, decide_eq_true_iff, hmode, StateRefused, and_assoc, List.any_eq_true,
    List.mem_finRange, true_and]
  refine and_congr_right fun _ => and_congr_right fun _ => exists_congr fun l => ?_
  cases (s.lane l).flagStack <;> simp

theorem pop_underflow_iff : (decide (mod1 < 13#4) && x.flagStack.isEmpty) = false ↔
    (mod1 < 13#4 → x.flagStack ≠ []) := by
  simp

/-- Where the switches agree and no lane underflows, SFPPOPC makes `popLane` of every lane. -/
theorem exec_sfppopc_of_mayIssue (hvd : vd < 8#4) (hadmitted : ¬StateRefused (.sfppopc vd mod1) s)
    (hunder : mod1 < 13#4 → ∀ l : LaneIx, (s.lane l).flagStack ≠ []) (hissue : MayIssue s []) :
    exec (.sfppopc vd mod1) s = .next ((s.mapLanes fun _ lane => popLane mod1 lane).retire []) :=
  execSfppopc_next.2 ⟨formError_sfppopc.2 hvd, Bool.eq_false_iff.2 (mt (popMismatch_iff vd).1 hadmitted), hissue,
    fun l => pop_underflow_iff.2 fun h => hunder h l, rfl⟩

theorem lane_of_exec_sfppopc (h : exec (.sfppopc vd mod1) s = .next t) (l : LaneIx) :
    t.lane l = popLane mod1 (s.lane l) := by
  obtain ⟨-, -, -, -, rfl⟩ := execSfppopc_next.1 h
  exact retire_mapLanes_lane ..

theorem exec_sfppopc_of_empty_stack (hvd : vd < 8#4) (hadmitted : ¬StateRefused (.sfppopc vd mod1) s)
    (hissue : MayIssue s []) (h13 : mod1 < 13#4) (hl : (s.lane l).flagStack = [])
    (hlow : ∀ k, k < l → (s.lane k).flagStack ≠ []) :
    exec (.sfppopc vd mod1) s = .fault (.flagStackUnderflow s.pos l.val) := by
  change execSfppopc vd mod1 s = _
  rw [execSfppopc, admitted_of_formError_none (formError_sfppopc.2 hvd),
    Bool.eq_false_iff.2 (mt (popMismatch_iff vd).1 hadmitted), refuseIf, if_neg Bool.false_ne_true,
    issue_of_mayIssue hissue]
  exact faultIf_of_lowest (Bool.of_not_eq_false (mt pop_underflow_iff.1 fun h => h h13 hl))
    fun k hk => pop_underflow_iff.2 fun _ => hlow k hk

end Pop

/-- Settles O58: the modes of `popLane` one by one, and the fault at the lowest lane. -/
theorem popRestoresOrMutatesTheFlags : Obligations.PopRestoresOrMutatesTheFlags := by
  refine fun vd mod1 s hvd hadmitted => ⟨fun hstack => ?completes, fun l hissue h13 hl hlow =>
    exec_sfppopc_of_empty_stack hvd hadmitted hissue h13 hl hlow⟩
  refine completes_of_mapLanes (exec_sfppopc_of_mayIssue hvd hadmitted hstack)
    (fun l => predicationOnly_popLane ..) fun t hlane hdata => ⟨fun l top rest h0 htop => ?restore, fun h0 l => ?stack,
      fun l top rest h1 h12 htop => ?combine, fun h1 h13 l => ?switch, fun l => ⟨?invert, ?set, ?clear⟩, hdata⟩
  case restore => subst h0; rw [hlane, popLane_zero htop]; exact ⟨rfl, rfl, rfl⟩
  case stack => rw [hlane, popLane_flagStack, if_neg h0]
  case combine => rw [hlane, popLane_laneFlag_cons h1 h12 htop]
  case switch => rw [hlane, popLane_useLaneFlags _ (by bv_omega)]
  case invert => rintro rfl; rw [hlane]; rfl
  case set => rintro rfl; rw [hlane]; exact ⟨rfl, rfl⟩
  case clear => rintro rfl; rw [hlane]; exact ⟨rfl, rfl⟩

/-! ## SFPCOMPC (R224) -/

section Comp

variable {vd : Reg} {mod1 : Mode} {s t : State} {x : Lane} {top : FlagEntry} {rest : List FlagEntry}

theorem formError_sfpcompc : formError (.sfpcompc vd mod1) = none ↔ mod1 = 0#4 ∧ vd < 8#4 := by
  simp [formError, require_eq_none]

theorem compLane_laneFlag_nil (hx : x.flagStack = []) : (compLane x).laneFlag = (x.useLaneFlags && !x.laneFlag) := by
  simp [compLane, hx]

theorem compLane_laneFlag_cons (hx : x.flagStack = top :: rest) : (compLane x).laneFlag =
    (top.useLaneFlags && x.useLaneFlags && (top.laneFlags && !x.laneFlag)) := by
  simp only [compLane, hx, List.headD_cons]

theorem lane_of_exec_sfpcompc (h : exec (.sfpcompc vd mod1) s = .next t) (l : LaneIx) :
    t.lane l = compLane (s.lane l) := by
  obtain ⟨-, -, rfl⟩ := execSfpcompc_next.1 h
  exact retire_mapLanes_lane ..

end Comp

/-- Settles O59: every lane gets `compLane`, with the default top on an empty stack. -/
theorem complementSelectsTheElseLanes : Obligations.ComplementSelectsTheElseLanes := by
  intro vd s hvd
  refine completes_of_mapLanes (fun hissue => execSfpcompc_next.2 ⟨formError_sfpcompc.2 ⟨rfl, hvd⟩, hissue, rfl⟩)
    (fun l => predicationOnly_compLane _) fun t hlane hdata => ⟨fun l => ?flag, fun l => ?_, fun l => ?_, hdata⟩
  case flag =>
    rw [hlane]
    split
    case h_1 hx => exact compLane_laneFlag_nil hx
    case h_2 hx => exact compLane_laneFlag_cons hx
  all_goals rw [hlane]; rfl

/-! ## The if, else, endif pattern (R226, R227) -/

/-- With predication on, a lane is enabled where its row is not masked and its flag is set (R23). -/
theorem laneEnabled_iff_of_switch {s t : State} {l : LaneIx} (hconfig : KeepsLaneConfig s t)
    (hswitch : (t.lane l).useLaneFlags = true) : laneEnabled t l = true ↔
      rowMask (s.lane (columnLane l)).laneConfig (laneRow l) = false ∧ (t.lane l).laneFlag = true := by
  rw [laneEnabled_iff, hconfig (columnLane l)]
  exact and_congr_right fun _ => ⟨fun h => h hswitch, fun h _ => h⟩

/-- The state `u` is inside the scope that a push in `s` opened: the state of predication of `s` stands on top of the
stack, and the enable switch and `LaneConfig` are as they were. -/
structure InScope (s u : State) : Prop where
  switch : KeepsSwitch s u
  stack : ∀ l : LaneIx, (u.lane l).flagStack = ⟨(s.lane l).laneFlag, (s.lane l).useLaneFlags⟩ :: (s.lane l).flagStack
  config : KeepsLaneConfig s u

/-- SFPPUSHC opens a scope, and leaves the flags. -/
theorem inScope_of_push {vd : Reg} {s t : State} (h : exec (.sfppushc vd 0) s = .next t) :
    InScope s t ∧ KeepsFlags s t := by
  have hlane (l : LaneIx) := (lane_of_exec_sfppushc h l).trans (pushLane_zero _)
  exact ⟨⟨fun l => by rw [hlane], fun l => by rw [hlane], fun l => by rw [hlane]⟩, fun l => by rw [hlane]⟩

namespace InScope

variable {vd : Reg} {s u v : State}

/-- The body of a scope stays inside. -/
theorem body (h : InScope s u) (hstack : KeepsStack u v) (hswitch : KeepsSwitch u v) (hconfig : KeepsLaneConfig u v) :
    InScope s v :=
  ⟨fun l => (hswitch l).trans (h.switch l), fun l => (hstack l).trans (h.stack l),
    fun l => (hconfig l).trans (h.config l)⟩

/-- SFPCOMPC stays inside and, with predication on, picks the lanes that were active and are not. -/
theorem complement (h : InScope s u) (hon : ∀ l : LaneIx, (s.lane l).useLaneFlags = true)
    (hexec : exec (.sfpcompc vd 0) u = .next v) :
    InScope s v ∧ ∀ l : LaneIx, (v.lane l).laneFlag = ((s.lane l).laneFlag && !(u.lane l).laneFlag) := by
  have hlane := lane_of_exec_sfpcompc hexec
  refine ⟨h.body (fun l => by rw [hlane]; rfl) (fun l => by rw [hlane]; rfl) fun l => by rw [hlane]; rfl, fun l => ?_⟩
  rw [hlane, compLane_laneFlag_cons (h.stack l), h.switch, hon]
  rfl

/-- SFPPOPC closes the scope: the state of predication is that of the push. -/
theorem pop (h : InScope s u) (hexec : exec (.sfppopc vd 0) u = .next v) :
    KeepsFlags s v ∧ KeepsSwitch s v ∧ KeepsStack s v ∧ KeepsLaneConfig s v := by
  have hlane (l : LaneIx) := (lane_of_exec_sfppopc hexec l).trans (popLane_zero (h.stack l))
  exact ⟨fun l => by rw [hlane], fun l => by rw [hlane], fun l => by rw [hlane],
    fun l => by rw [hlane]; exact h.config l⟩

end InScope

/-- Settles O60: each state up to the pop is inside the scope of the push, so its enabled lanes are those of the rows
not masked with their flag set, and the flags are followed through the pattern. -/
theorem ifElsePatternPartitionsTheActiveLanes : Obligations.IfElsePatternPartitionsTheActiveLanes := by
  intro vd vd' vd'' s s1 s2 s3 s4 s5 hon hpush hstack2 hswitch2 hconfig2 hnarrow hcomp hstack4 hswitch4 hconfig4 hpop
  obtain ⟨hscope1, hflags1⟩ := inScope_of_push hpush
  have hscope2 : InScope s s2 := hscope1.body hstack2 hswitch2 hconfig2
  obtain ⟨hscope3, hflag3⟩ := hscope2.complement hon hcomp
  obtain ⟨hflags5, hswitch5, hstack5, hconfig5⟩ := (hscope3.body hstack4 hswitch4 hconfig4).pop hpop
  have henabled (l : LaneIx) := laneEnabled_iff_of_switch (fun _ => rfl) (hon l)
  have henabledIn {u : State} (h : InScope s u) (l : LaneIx) :=
    laneEnabled_iff_of_switch h.config ((h.switch l).trans (hon l))
  refine ⟨fun l hl => ?ifLanes, fun l => ?elseLanes,
    fun l => laneEnabled_congr (hconfig5 _) (hswitch5 l) (hflags5 l), hflags5, hswitch5, hstack5⟩
  case ifLanes =>
    obtain ⟨hmask, hflag2⟩ := (henabledIn hscope2 l).1 hl
    exact (henabled l).2 ⟨hmask, (hflags1 l).symm.trans (hnarrow l hflag2)⟩
  case elseLanes =>
    rw [← Bool.not_eq_true, henabledIn hscope3, henabledIn hscope2, henabled, hflag3, Bool.and_eq_true,
      Bool.not_eq_true', not_and, Bool.not_eq_true]
    exact ⟨fun ⟨hmask, hwas, hnot⟩ => ⟨⟨hmask, hwas⟩, fun _ => hnot⟩,
      fun ⟨⟨hmask, hwas⟩, hnot⟩ => ⟨hmask, hwas, hnot hmask⟩⟩

end Sys2Proof.Machine

/-! # Refusals (`60_exceptions.md` R243, R244): the checks of the form, then those of the state, then the faults -/

namespace Sys2Proof.Machine

/-! ## A check of the form or of the state (R243) -/

theorem admitted_of_formError {i : Instr} {e : FormError} {k : Result} (h : formError i = some e) :
    admitted i k = .refused (.inadmissible e) := by
  rw [admitted, h]

theorem refuseIf_of_true {b : Bool} {r : Refusal} {k : Result} (h : b = true) : refuseIf b r k = .refused r := if_pos h

theorem refuseIf_of_ne_true {b : Bool} {r : Refusal} {k : Result} (h : b ≠ true) : refuseIf b r k = k := if_neg h

/-! ## Outcomes that are no refusal -/

/-- The outcome is the next state or a fault. -/
def NotRefused (k : Result) : Prop := ∀ r, k ≠ .refused r

section NotRefused

variable {k : Result}

theorem notRefused_next {t : State} : NotRefused (.next t) := nofun

theorem notRefused_issue {s : State} {reads : List Reg} (h : NotRefused k) : NotRefused (issue s reads k) := by
  unfold issue
  split
  · nofun
  · exact h

theorem notRefused_faultIf {bad : LaneIx → Bool} {f : Nat → Fault} (h : NotRefused k) :
    NotRefused (faultIf bad f k) := by
  unfold faultIf
  split
  · nofun
  · exact h

end NotRefused

/-! ## What an instruction is refused for -/

/-- The name under which an instruction is refused for the state, where it can be (R243). -/
def stateRefusal : Instr → Refusal
  | .sfpstore .. => .backdoorStore
  | .sfpswap .. => .destIndexSwap
  | .sfpconfig .. => .configUnderPredication
  | _ => .popSwitchMismatch

/-- In the state `s` the outcome `k` of the instruction `i` is a refusal exactly on the grounds of R243: those of the
form before those of the state, and both before any fault (R244). -/
structure Refusals (i : Instr) (s : State) (k : Result) : Prop where
  form : ∀ e, formError i = some e → k = .refused (.inadmissible e)
  state : formError i = none → StateRefused i s → k = .refused (stateRefusal i)
  unrefused : formError i = none → ¬StateRefused i s → NotRefused k

section Shapes

variable {i : Instr} {s : State} {reads : List Reg} {k : Result}

/-- An instruction with the check `b` of the state. -/
theorem refusals_refuseIf {b : Bool} (hb : b = true ↔ StateRefused i s) (hk : NotRefused k) :
    Refusals i s (admitted i (refuseIf b (stateRefusal i) (issue s reads k))) where
  form _ := admitted_of_formError
  state hform hstate := by rw [admitted_of_formError_none hform, refuseIf_of_true (hb.2 hstate)]
  unrefused hform hstate := by
    rw [admitted_of_formError_none hform, refuseIf_of_ne_true (mt hb.1 hstate)]
    exact notRefused_issue hk

/-- An instruction without a check of the state. -/
theorem refusals_issue (hs : ¬StateRefused i s) (hk : NotRefused k) : Refusals i s (admitted i (issue s reads k)) where
  form _ := admitted_of_formError
  state _ hstate := absurd hstate hs
  unrefused hform _ := by
    rw [admitted_of_formError_none hform]
    exact notRefused_issue hk

theorem refusals_lanewiseTo {dst : LaneIx → Reg} {val : LaneIx → Word} {p : List Reg} (hs : ¬StateRefused i s) :
    Refusals i s (lanewiseTo i reads s dst val p) :=
  refusals_issue hs notRefused_next

theorem refusals_lanewiseFlag {vd : Reg} {val : LaneIx → Word} {sets : Bool} {flag : LaneIx → Bool}
    (hs : ¬StateRefused i s) : Refusals i s (lanewiseFlag i reads s vd val sets flag) :=
  refusals_issue hs notRefused_next

theorem refusals_compareExec {vd : Reg} {mod1 : Mode} {r : LaneIx → Bool} (hs : ¬StateRefused i s) :
    Refusals i s (compareExec i vd mod1 r s) :=
  refusals_issue hs (notRefused_faultIf notRefused_next)

/-- With VD 8 to 15 SFPLOAD retires; else the two checks of its cells are faults. -/
theorem refusals_execSfpload {vd : Reg} {mod0 : Mode} {addrMod : BitVec 3} {imm10 : BitVec 10} :
    Refusals (.sfpload vd mod0 addrMod imm10) s (execSfpload vd mod0 addrMod imm10 s) := by
  refine refusals_issue id ?_
  split
  · exact notRefused_next
  · exact notRefused_faultIf (notRefused_faultIf notRefused_next)

end Shapes

/-! ## The checks of the state are those of R243 -/

section StateChecks

variable {s : State}

/-- The check of SFPSTORE is that of R96 (that of SFPPOPC: `popMismatch_iff`). -/
theorem backdoorStore_iff {vd : Reg} (mod0 : Mode) (addrMod : BitVec 3) (imm10 : BitVec 10) :
    (!isGpr vd && (List.finRange Config.nLanes).any fun l => !disableBackdoorLoad (s.lane l).laneConfig) = true ↔
      StateRefused (.sfpstore vd mod0 addrMod imm10) s := by
  simp [StateRefused]

/-- The check of SFPSWAP is that of R174. -/
theorem destIndexSwap_iff (vc vd : Reg) (mod1 : Mode) :
    ((List.finRange Config.nLanes).any fun l => enableDestIndex (s.lane l).laneConfig) = true ↔
      StateRefused (.sfpswap vc vd mod1) s := by
  simp [StateRefused]

/-- The check of SFPCONFIG is that of R206. -/
theorem configUnderPredication_iff (imm16 : BitVec 16) (vd : Reg) (mod1 : Mode) :
    ((List.finRange Config.nLanes).any fun l => !laneEnabled s l) = true ↔
      StateRefused (.sfpconfig imm16 vd mod1) s := by
  simp [StateRefused]

end StateChecks

/-- Every instruction is refused exactly on the grounds of R243. -/
theorem exec_refusals (i : Instr) (s : State) : Refusals i s (exec i s) := by
  cases i with
  | sfploadi | sfpdivp2 | sfpexman | sfpshft | sfpabs | sfpand | sfpor | sfpnot | sfpsetexp | sfpsetman | sfpsetsgn
  | sfpxor | sfparecip | sfpmuli | sfpaddi | sfpmad | sfpadd | sfpmul | sfplutfp32 | sfpmul24 =>
    exact refusals_lanewiseTo id
  | sfpexexp | sfpiadd | sfplz => exact refusals_lanewiseFlag id
  | sfpgt | sfple => exact refusals_compareExec id
  | sfpsetcc | sfpmov | sfpcast | sfpstochrnd | sfpshft2 | sfpencc | sfpcompc =>
    exact refusals_issue id notRefused_next
  | sfppushc => exact refusals_issue id (notRefused_faultIf (notRefused_faultIf notRefused_next))
  | sfpload => exact refusals_execSfpload
  | sfpstore vd mod0 addrMod imm10 =>
    exact refusals_refuseIf (backdoorStore_iff mod0 addrMod imm10) (notRefused_faultIf notRefused_next)
  | sfpswap vc vd mod1 => exact refusals_refuseIf (destIndexSwap_iff vc vd mod1) notRefused_next
  | sfpconfig imm16 vd mod1 => exact refusals_refuseIf (configUnderPredication_iff imm16 vd mod1) notRefused_next
  | sfppopc vd mod1 => exact refusals_refuseIf (popMismatch_iff vd) (notRefused_faultIf notRefused_next)
  | sfpnop => exact ⟨nofun, fun _ => False.elim, fun _ _ => notRefused_next⟩
  | sfptransp | sfploadmacro => exact ⟨fun e he => by cases he; rfl, nofun, nofun⟩

/-- Settles O15: an admitted form is refused for the state or not at all. -/
theorem stateRefusalsAreExactlyThoseOfTheSpec : Obligations.StateRefusalsAreExactlyThoseOfTheSpec := by
  intro i s hform
  have hrefusals := exec_refusals i s
  have hnone : formError i = none := Option.isNone_iff_eq_none.1 hform
  refine ⟨⟨fun ⟨r, hr⟩ => ?_, fun h => ⟨_, hrefusals.state hnone h⟩⟩, hrefusals.state hnone⟩
  by_contra h
  exact hrefusals.unrefused hnone h r hr

/-! ## The reserved forms (R243): the first check of the form that fails names the refusal -/

theorem refuses_of_formError {i : Instr} {e : FormError} (h : formError i = some e) : Refuses i e :=
  fun s => (exec_refusals i s).form e h

section Checks

variable {p : Prop} {_ : Decidable p} {e e' : FormError} {rest : Option FormError}

theorem require_failed (h : ¬p) : require (decide p) e = some e := by
  rw [decide_eq_false h]; rfl

theorem require_failed_orElse (h : ¬p) : (require (decide p) e <|> rest) = some e := by
  rw [require_failed h]; rfl

theorem require_passed_orElse (h : p) (hrest : rest = some e') : (require (decide p) e <|> rest) = some e' := by
  rw [decide_eq_true h]; exact hrest

/-- The first of several checks fails. -/
theorem refuses_of_first {i : Instr} (hi : formError i = (require (decide p) e <|> rest)) (h : ¬p) :
    Refuses i e :=
  refuses_of_formError (hi.trans (require_failed_orElse h))

/-- The only check fails. -/
theorem refuses_of_only {i : Instr} (hi : formError i = require (decide p) e) (h : ¬p) : Refuses i e :=
  refuses_of_formError (hi.trans (require_failed h))

end Checks

section Masks

variable {m : Mode}

/-- A mask of one bit finds the bit. -/
theorem and_twoPow_eq_zero_iff (m : Mode) (k : Fin 4) : m &&& BitVec.twoPow 4 k = 0#4 ↔ m.getLsbD k = false := by
  revert m k; decide

theorem and_twoPow_ne_zero (k : Fin 4) (h : m.getLsbD k = true) : ¬m &&& BitVec.twoPow 4 k = 0#4 :=
  mt (and_twoPow_eq_zero_iff m k).1 (ne_false_of_eq_true h)

/-- The mask of SFPADDI and SFPMULI finds the bits 0 and 2. -/
theorem and_five_ne_zero (h : m.getLsbD 0 = true ∨ m.getLsbD 2 = true) : ¬m &&& 5#4 = 0#4 := by
  revert m; decide

end Masks

/-- Settles O16: for each form, the checks before the one it fails are passed. -/
theorem reservedFormsAreRefused : Obligations.ReservedFormsAreRefused := by
  refine ⟨?access, ?storeSource, ?addi, ?muli, ?muliNegate, ?lutfp32, ?mul24, ?mul24Addend, ?modesBelowTwo, ?setexp,
    ?exexp, ?andOr, ?xorNot, ?lz, ?shft, ?shft2, ?shft2Operand, ?setcc, ?swap, ?cast, ?roundingMode, ?roundOperands,
    ?arecip, ?mov, ?loadi, ?loadiDestination, ?configDestination, ?configLaneMask, ?configXor, ?encc, ?pushPairOrder,
    ?compc, ?unusedDestination⟩
  case access =>
    exact fun vd am imm => ⟨refuses_of_only rfl (not_not_intro rfl), refuses_of_first rfl (not_not_intro rfl),
      refuses_of_formError (require_passed_orElse (by decide) (require_failed_orElse (not_not_intro rfl)))⟩
  case storeSource =>
    exact fun vd mod0 am imm h10 h11 h12 => refuses_of_formError
      (require_passed_orElse h10 (require_passed_orElse h11 (require_failed (BitVec.not_lt.2 h12))))
  case addi => exact fun imm vd mod1 h => refuses_of_only rfl (and_five_ne_zero h)
  case muli => exact fun imm vd mod1 h => refuses_of_first rfl (and_five_ne_zero h)
  case muliNegate =>
    rintro imm vd mod1 (rfl | rfl) <;> exact refuses_of_formError rfl
  case lutfp32 => exact fun vd mod1 h => refuses_of_only rfl fun ⟨h1, h9⟩ => h.elim h1 h9
  case mul24 => exact fun va vb vc vd mod1 h => refuses_of_first rfl (and_twoPow_ne_zero 1 h)
  case mul24Addend =>
    exact fun va vb vc vd mod1 h h9 => refuses_of_formError
      (require_passed_orElse ((and_twoPow_eq_zero_iff mod1 1).2 h) (require_failed h9))
  case modesBelowTwo =>
    intro x8 x12 x1 vc vd mod1 h
    have h2 : ¬mod1 < 2#4 := BitVec.not_lt.2 h
    exact ⟨refuses_of_only rfl h2, refuses_of_only rfl h2, refuses_of_only rfl h2, refuses_of_only rfl h2,
      refuses_of_only rfl h2⟩
  case setexp => exact fun x8 vc vd mod1 h => refuses_of_only rfl (BitVec.not_lt.2 h)
  case exexp => exact fun vc vd mod1 h => refuses_of_only rfl (and_twoPow_ne_zero 2 h)
  case andOr =>
    exact fun vb vc vd mod1 h => ⟨refuses_of_only rfl (BitVec.not_lt.2 h), refuses_of_only rfl (BitVec.not_lt.2 h)⟩
  case xorNot => exact fun vc vd mod1 h => ⟨refuses_of_only rfl h, refuses_of_only rfl h⟩
  case lz => exact fun vc vd mod1 h => refuses_of_only rfl (and_twoPow_ne_zero 0 h)
  case shft => exact fun x vc vd mod1 h => refuses_of_only rfl (and_twoPow_ne_zero 3 h)
  case shft2 => exact fun x vc vd mod1 h => refuses_of_first rfl (BitVec.not_lt.2 h)
  case shft2Operand =>
    intro x vc vd mod1 h6 hx
    have h7 : mod1 < 7#4 := BitVec.lt_trans h6 (by decide)
    exact refuses_of_formError (require_passed_orElse h7 (require_failed fun h => h.elim (BitVec.ne_of_lt h6) hx))
  case setcc => exact fun x vc vd mod1 h => refuses_of_only rfl (BitVec.not_lt.2 h)
  case swap => exact fun vc vd mod1 h => refuses_of_only rfl (BitVec.not_lt.2 h)
  case cast => exact fun vc vd mod1 h => refuses_of_only rfl (BitVec.not_lt.2 h)
  case roundingMode => exact fun imm5 vb vc vd mod1 u => refuses_of_first rfl (not_not_intro rfl)
  case roundOperands =>
    intro mode imm5 vb vc vd mod1 u h3 h4 h5 hop
    have hnot : ¬(mod1 = 4#3 ∨ mod1 = 5#3 ∨ imm5 = 0#5 ∧ u = 0#1) := by tauto
    exact refuses_of_formError (require_passed_orElse h3 (require_failed hnot))
  case arecip => exact fun vb vc vd mod1 h => refuses_of_only rfl (BitVec.not_lt.2 h)
  case mov => exact fun vc vd mod1 h => refuses_of_only rfl (by simpa using h)
  case loadi => exact fun vd mod0 imm h => refuses_of_first rfl (by simpa using h)
  case loadiDestination =>
    exact fun vd mod0 imm h h8 => refuses_of_formError
      (require_passed_orElse (by simpa using h) (require_failed (BitVec.not_lt.2 h8)))
  case configDestination => exact fun imm vd mod1 h => refuses_of_first rfl fun ⟨h9, h10⟩ => h.elim h9 h10
  case configLaneMask =>
    exact fun imm vd mod1 h9 h10 h => refuses_of_formError
      (require_passed_orElse ⟨h9, h10⟩ (require_failed_orElse (and_twoPow_ne_zero 3 h)))
  case configXor =>
    intro imm vd mod1 h9 h10 h
    have hmask : mod1 &&& 8#4 = 0#4 ∧ mod1 &&& 6#4 = 6#4 := by rcases h with rfl | rfl <;> decide
    exact refuses_of_formError (require_passed_orElse ⟨h9, h10⟩
      (require_passed_orElse hmask.1 (require_failed (not_not_intro hmask.2))))
  case encc => exact fun imm2 vd mod1 h => refuses_of_first rfl (and_twoPow_ne_zero 2 h)
  case pushPairOrder => exact fun vd => refuses_of_first rfl (not_not_intro rfl)
  case compc => exact fun vd mod1 h => refuses_of_first rfl h
  case unusedDestination =>
    intro imm2 vd mod1 h
    have h8 : ¬vd < 8#4 := BitVec.not_lt.2 h
    exact ⟨fun h2 => refuses_of_formError
        (require_passed_orElse ((and_twoPow_eq_zero_iff mod1 2).2 h2) (require_failed h8)),
      fun h15 => refuses_of_formError (require_passed_orElse h15 (require_failed h8)),
      refuses_of_only rfl h8, refuses_of_formError (require_passed_orElse rfl (require_failed h8))⟩

end Sys2Proof.Machine

/-! # Hazards (`70_reset_and_hazards.md` R266, R268, R269): `issue` alone raises `HazardViolation` -/

namespace Sys2Proof.Machine

/-! ## Outcomes that are no hazard violation -/

/-- The outcome is the next state, a refusal, or a fault other than `HazardViolation`. -/
def NoHazard (k : Result) : Prop := ∀ pos, k ≠ .fault (.hazardViolation pos)

section NoHazard

variable {k : Result}

theorem noHazard_next {t : State} : NoHazard (.next t) := nofun

/-- A check of the lanes raises the fault of its own. -/
theorem noHazard_faultIf {bad : LaneIx → Bool} {f : Nat → Fault} (hf : ∀ n pos, f n ≠ .hazardViolation pos)
    (hk : NoHazard k) : NoHazard (faultIf bad f k) := by
  unfold faultIf
  split
  · exact fun pos h => hf _ pos (Host.Outcome.fault.inj h)
  · exact hk

end NoHazard

/-! ## Where an instruction may not issue -/

theorem not_mayIssue_iff {s : State} {reads : List Reg} :
    ¬MayIssue s reads ↔ s.nopRequired = true ∨ ∃ r ∈ s.pending, r ∈ reads := by
  simp only [MayIssue, not_and_or, Bool.not_eq_false, not_forall, not_not, exists_prop, and_comm]

theorem issue_of_not_mayIssue {s : State} {reads : List Reg} {k : Result} (h : ¬MayIssue s reads) :
    issue s reads k = .fault (.hazardViolation s.pos) := by
  obtain hnop | ⟨r, hpending, hread⟩ := not_mayIssue_iff.1 h
  · rw [issue, hnop]; rfl
  · have hany : reads.any (fun r => s.pending.contains r) = true :=
      List.any_eq_true.2 ⟨r, hread, List.contains_iff_mem.2 hpending⟩
    rw [issue, hany, Bool.or_true]; rfl

theorem issue_hazard_iff {s : State} {reads : List Reg} {k : Result} (hk : NoHazard k) :
    issue s reads k = .fault (.hazardViolation s.pos) ↔ ¬MayIssue s reads :=
  ⟨fun h hissue => hk s.pos ((issue_of_mayIssue hissue).symm.trans h), issue_of_not_mayIssue⟩

/-! ## The undetected reads (R266) -/

/-- `reads` lists the undetected reads of `i`. -/
def ListsReads (i : Instr) (reads : List Reg) : Prop := ∀ r, r ∈ reads ↔ undetectedRead i r

section Reads

variable {vb vc vd : Reg} {mod1 : Mode}

theorem listsReads_nil {i : Instr} (h : ∀ r, ¬undetectedRead i r) : ListsReads i [] :=
  fun r => iff_of_false List.not_mem_nil (h r)

theorem formError_sfpand : formError (.sfpand vb vc vd mod1) = none ↔ mod1 < 2#4 := by
  simp [formError, require_eq_none]

theorem formError_sfpor : formError (.sfpor vb vc vd mod1) = none ↔ mod1 < 2#4 := by
  simp [formError, require_eq_none]

/-- In the two modes of SFPAND and SFPOR bit 0 tells mode 1, `USE_VB`. -/
theorem bit_zero_iff_of_lt_two (h : mod1 < 2#4) : bit mod1 0 = true ↔ mod1 = 1#4 := by
  revert mod1; decide

/-- SFPAND and SFPOR read VB under `USE_VB`. -/
theorem listsReads_useVb {i : Instr} (hmode : mod1 < 2#4) (hi : ∀ r, undetectedRead i r ↔ mod1 = 1#4 ∧ r = vb) :
    ListsReads i (if bit mod1 0 then [vb] else []) := by
  intro r
  rw [List.mem_ite_nil_right, List.mem_singleton, bit_zero_iff_of_lt_two hmode, hi]

theorem listsReads_sfpiadd {imm12 : BitVec 12} :
    ListsReads (.sfpiadd imm12 vc vd mod1) (if bit mod1 0 then [] else [vd]) := by
  intro r
  rw [List.mem_ite_nil_left, List.mem_singleton, Bool.not_eq_true]
  rfl

theorem listsReads_sfpshft {imm12 : BitVec 12} :
    ListsReads (.sfpshft imm12 vc vd mod1) (if bit mod1 0 && bit mod1 2 then [] else [vd]) := by
  intro r
  rw [List.mem_ite_nil_left, List.mem_singleton, Bool.and_eq_true]
  rfl

theorem listsReads_sfpconfig {imm16 : BitVec 16} :
    ListsReads (.sfpconfig imm16 vd mod1) (if configUsesImm vd mod1 then [] else [0#4]) := by
  intro r
  rw [List.mem_ite_nil_left, List.mem_singleton, configUsesImm_iff]
  rfl

theorem listsReads_sfpswap : ListsReads (.sfpswap vc vd mod1) (if mod1 = 0#4 then [] else [vc, vd]) := by
  intro r
  by_cases h : mod1 = 0#4 <;> simp [undetectedRead, h]

/-- The modes of SFPSHFT2 in the order in which `shft2Reads` tells them apart. -/
theorem listsReads_sfpshft2 {x : BitVec 12} : ListsReads (.sfpshft2 x vc vd mod1) (shft2Reads x vc mod1) := by
  intro r
  unfold shft2Reads undetectedRead
  split_ifs with h2 h34 h56
  · simp [h2]
  · rcases h34 with rfl | rfl <;> simp
  · rcases h56 with rfl | rfl <;> simp
  · simp [h2, h34, h56]

end Reads

/-! ## What an instruction raises `HazardViolation` for -/

/-- Where no refusal of `i` comes first, the outcome `k` in the state `s` is `HazardViolation` exactly under a demand
for an SFPNOP or on an undetected read of a pending register. -/
def Hazards (i : Instr) (s : State) (k : Result) : Prop :=
  formError i = none → ¬StateRefused i s →
    (k = .fault (.hazardViolation s.pos) ↔ s.nopRequired = true ∨ ∃ r ∈ s.pending, undetectedRead i r)

section Shapes

variable {i : Instr} {s : State} {reads : List Reg} {k : Result}

theorem issue_hazard_iff_undetectedRead (hreads : ListsReads i reads) (hk : NoHazard k) :
    issue s reads k = .fault (.hazardViolation s.pos) ↔
      s.nopRequired = true ∨ ∃ r ∈ s.pending, undetectedRead i r := by
  rw [issue_hazard_iff hk, not_mayIssue_iff]
  simp only [hreads _]

/-- An instruction without a check of the state. -/
theorem hazards_issue (hreads : formError i = none → ListsReads i reads) (hk : NoHazard k) :
    Hazards i s (admitted i (issue s reads k)) := by
  intro hform _
  rw [admitted_of_formError_none hform]
  exact issue_hazard_iff_undetectedRead (hreads hform) hk

/-- An instruction with the check `b` of the state. -/
theorem hazards_refuseIf {b : Bool} {r : Refusal} (hb : b = true ↔ StateRefused i s) (hreads : ListsReads i reads)
    (hk : NoHazard k) : Hazards i s (admitted i (refuseIf b r (issue s reads k))) := by
  intro hform hstate
  rw [admitted_of_formError_none hform, refuseIf_of_ne_true (mt hb.1 hstate)]
  exact issue_hazard_iff_undetectedRead hreads hk

/-- An instruction all of whose reads are detected, without a check of the state. -/
theorem hazards_detected (h : ∀ r, ¬undetectedRead i r) (hk : NoHazard k) :
    Hazards i s (admitted i (issue s [] k)) :=
  hazards_issue (fun _ => listsReads_nil h) hk

/-- With VD 8 to 15 SFPLOAD retires; else the two checks of its cells raise faults of their own. -/
theorem hazards_execSfpload {vd : Reg} {mod0 : Mode} {addrMod : BitVec 3} {imm10 : BitVec 10} :
    Hazards (.sfpload vd mod0 addrMod imm10) s (execSfpload vd mod0 addrMod imm10 s) := by
  refine hazards_detected (fun _ => id) ?_
  split
  · exact noHazard_next
  · exact noHazard_faultIf nofun (noHazard_faultIf nofun noHazard_next)

end Shapes

/-- Every instruction but SFPNOP faults with `HazardViolation` exactly as R266, R268 and R269 say. -/
theorem exec_hazards {i : Instr} (hi : i ≠ .sfpnop) (s : State) : Hazards i s (exec i s) := by
  cases i with
  | sfploadi | sfpdivp2 | sfpexman | sfpabs | sfpnot | sfpsetexp | sfpsetman | sfpsetsgn | sfpxor | sfparecip
  | sfpmuli | sfpaddi | sfpmad | sfpadd | sfpmul | sfplutfp32 | sfpmul24
  | sfpexexp | sfplz | sfpsetcc | sfpmov | sfpcast | sfpstochrnd | sfpencc | sfpcompc =>
    exact hazards_detected (fun _ => id) noHazard_next
  | sfpand =>
    exact hazards_issue (fun hform => listsReads_useVb (formError_sfpand.1 hform) fun _ => Iff.rfl) noHazard_next
  | sfpor =>
    exact hazards_issue (fun hform => listsReads_useVb (formError_sfpor.1 hform) fun _ => Iff.rfl) noHazard_next
  | sfpiadd => exact hazards_issue (fun _ => listsReads_sfpiadd) noHazard_next
  | sfpshft => exact hazards_issue (fun _ => listsReads_sfpshft) noHazard_next
  | sfpshft2 => exact hazards_issue (fun _ => listsReads_sfpshft2) noHazard_next
  | sfpgt | sfple => exact hazards_detected (fun _ => id) (noHazard_faultIf nofun noHazard_next)
  | sfppushc =>
    exact hazards_detected (fun _ => id) (noHazard_faultIf nofun (noHazard_faultIf nofun noHazard_next))
  | sfpload => exact hazards_execSfpload
  | sfpstore vd mod0 addrMod imm10 =>
    exact hazards_refuseIf (backdoorStore_iff mod0 addrMod imm10) (listsReads_nil fun _ => id)
      (noHazard_faultIf nofun noHazard_next)
  | sfpswap vc vd mod1 => exact hazards_refuseIf (destIndexSwap_iff vc vd mod1) listsReads_sfpswap noHazard_next
  | sfpconfig imm16 vd mod1 =>
    exact hazards_refuseIf (configUnderPredication_iff imm16 vd mod1) listsReads_sfpconfig noHazard_next
  | sfppopc vd mod1 =>
    exact hazards_refuseIf (popMismatch_iff vd) (listsReads_nil fun _ => id) (noHazard_faultIf nofun noHazard_next)
  | sfpnop => exact absurd rfl hi
  | sfptransp | sfploadmacro => nofun

/-- Settles O14: SFPNOP always completes; every other instruction is issued after its refusals, and nothing behind
`issue` raises the fault. -/
theorem hazardFaultsExactlyOnUndetectedReads : Obligations.HazardFaultsExactlyOnUndetectedReads := by
  intro i s hform hstate
  by_cases hi : i = .sfpnop
  · subst hi
    exact iff_of_false (noHazard_next s.pos) (by simp [undetectedRead])
  · rw [exec_hazards hi s (Option.isNone_iff_eq_none.1 hform) hstate, and_iff_left hi]

end Sys2Proof.Machine
